-- ==== Sys2Proof/Word.lean ====
section
/-! DEFINITION. The word types of the block: 8-bit data (10_state.md R20), 16-bit addresses and opcodes (R26, R31), 4-bit fields
and the 12-bit immediate NNN (30_encoding.md R72). Every value is unsigned (00_scope.md R10). -/

namespace Sys2Proof

/-- An 8-bit value: a register, a timer, a memory byte, NN (10_state.md R20, R32, R37; 30_encoding.md R72). -/
abbrev Byte := BitVec 8

/-- A 16-bit value: an opcode, `pc`, the index register, a return address (10_state.md R26, R29, R31; 30_encoding.md R71). -/
abbrev Word := BitVec 16

/-- A 4-bit field of an opcode: X, Y or N (30_encoding.md R72). -/
abbrev Nibble := BitVec 4

/-- The 12-bit immediate NNN of an opcode (30_encoding.md R72). -/
abbrev Addr12 := BitVec 12

end Sys2Proof
end

