-- ==== Sys2Proof/Syntax.lean ====
section
/-! DEFINITION. The instructions of spec/opcode_table.json, one constructor per row, in the table's order (30_encoding.md R75), with
the operand fields the row names (R72, R74). -/

namespace Sys2Proof

/-- An instruction: one constructor per row of the opcode table. `x` and `y` are register numbers, `n` a row count, `nn` an 8-bit
and `nnn` a 12-bit immediate (30_encoding.md R72). Every value of every field is an instruction, so a field's type is its width. -/
inductive Instr where
  /-- 00E0 CLS (43_display.md R160) -/
  | cls
  /-- 00EE RET (40_control_flow.md R90) -/
  | ret
  /-- 1NNN JP addr (40_control_flow.md R91) -/
  | jp (nnn : Addr12)
  /-- 2NNN CALL addr (40_control_flow.md R92) -/
  | call (nnn : Addr12)
  /-- 3XNN SE Vx, byte (40_control_flow.md R93) -/
  | seByte (x : Nibble) (nn : Byte)
  /-- 4XNN SNE Vx, byte (40_control_flow.md R94) -/
  | sneByte (x : Nibble) (nn : Byte)
  /-- 5XY0 SE Vx, Vy (40_control_flow.md R95) -/
  | seReg (x y : Nibble)
  /-- 6XNN LD Vx, byte (41_alu.md R110) -/
  | ldByte (x : Nibble) (nn : Byte)
  /-- 7XNN ADD Vx, byte (41_alu.md R111) -/
  | addByte (x : Nibble) (nn : Byte)
  /-- 8XY0 LD Vx, Vy (41_alu.md R112) -/
  | ldReg (x y : Nibble)
  /-- 8XY1 OR Vx, Vy (41_alu.md R113) -/
  | orReg (x y : Nibble)
  /-- 8XY2 AND Vx, Vy (41_alu.md R114) -/
  | andReg (x y : Nibble)
  /-- 8XY3 XOR Vx, Vy (41_alu.md R115) -/
  | xorReg (x y : Nibble)
  /-- 8XY4 ADD Vx, Vy (41_alu.md R116) -/
  | addReg (x y : Nibble)
  /-- 8XY5 SUB Vx, Vy (41_alu.md R117) -/
  | sub (x y : Nibble)
  /-- 8XY6 SHR Vx, Vy (41_alu.md R118) -/
  | shr (x y : Nibble)
  /-- 8XY7 SUBN Vx, Vy (41_alu.md R119) -/
  | subn (x y : Nibble)
  /-- 8XYE SHL Vx, Vy (41_alu.md R120) -/
  | shl (x y : Nibble)
  /-- 9XY0 SNE Vx, Vy (40_control_flow.md R96) -/
  | sneReg (x y : Nibble)
  /-- ANNN LD I, addr (42_index_memory.md R140) -/
  | ldI (nnn : Addr12)
  /-- BNNN JP V0, addr (40_control_flow.md R97) -/
  | jpV0 (nnn : Addr12)
  /-- CXNN RND Vx, byte (41_alu.md R121) -/
  | rnd (x : Nibble) (nn : Byte)
  /-- DXYN DRW Vx, Vy, nibble (43_display.md R161) -/
  | drw (x y n : Nibble)
  /-- EX9E SKP Vx (44_keys_timers.md R181) -/
  | skp (x : Nibble)
  /-- EXA1 SKNP Vx (44_keys_timers.md R182) -/
  | sknp (x : Nibble)
  /-- FX07 LD Vx, DT (44_keys_timers.md R183) -/
  | ldVxDt (x : Nibble)
  /-- FX0A LD Vx, K (44_keys_timers.md R184) -/
  | ldVxK (x : Nibble)
  /-- FX15 LD DT, Vx (44_keys_timers.md R185) -/
  | ldDtVx (x : Nibble)
  /-- FX18 LD ST, Vx (44_keys_timers.md R186) -/
  | ldStVx (x : Nibble)
  /-- FX1E ADD I, Vx (42_index_memory.md R141) -/
  | addI (x : Nibble)
  /-- FX29 LD F, Vx (42_index_memory.md R142) -/
  | ldF (x : Nibble)
  /-- FX33 LD B, Vx (42_index_memory.md R143) -/
  | ldB (x : Nibble)
  /-- FX55 LD [I], Vx (42_index_memory.md R144) -/
  | stRegs (x : Nibble)
  /-- FX65 LD Vx, [I] (42_index_memory.md R145) -/
  | ldRegs (x : Nibble)
deriving DecidableEq, Repr

end Sys2Proof
end

