-- ==== Sys2Proof/WellFormed.lean ====
section
/-! DEFINITION. Well-formedness of an instruction's operands, written over plain numbers: an instruction has exactly the fields of its
format (30_encoding.md R73) and each number fits its field's width (R72, R80: "addr is a 12-bit number", "byte is an 8-bit number",
"nibble is a 4-bit number", a register is one hex digit). -/

namespace Sys2Proof

/-- The operand fields of 30_encoding.md R72. -/
inductive Field where
  | x
  | y
  | n
  | nn
  | nnn
deriving DecidableEq, Repr

/-- The width of a field in bits (30_encoding.md R72). -/
def Field.width : Field → Nat
  | .x => 4
  | .y => 4
  | .n => 4
  | .nn => 8
  | .nnn => 12

/-- The six formats of 30_encoding.md R73. -/
inductive Format where
  | fixed
  | nnn
  | xnn
  | xy0
  | xyn
  | x
deriving DecidableEq, Repr

/-- The fields a format uses, in the order of the encoding (30_encoding.md R73). -/
def Format.uses : Format → List Field
  | .fixed => []
  | .nnn => [.nnn]
  | .xnn => [.x, .nn]
  | .xy0 => [.x, .y]
  | .xyn => [.x, .y, .n]
  | .x => [.x]

/-- The check: the operands are the format's fields, in order, and each number fits its field. -/
def operandsFit (f : Format) (ops : List (Field × Nat)) : Bool :=
  ops.map Prod.fst == f.uses && ops.all (fun o => decide (o.2 < 2 ^ o.1.width))

/-- The format of an instruction (30_encoding.md R73). -/
def Instr.format : Instr → Format
  | .cls | .ret => .fixed
  | .jp _ | .call _ | .ldI _ | .jpV0 _ => .nnn
  | .seByte _ _ | .sneByte _ _ | .ldByte _ _ | .addByte _ _ | .rnd _ _ => .xnn
  | .seReg _ _ | .sneReg _ _ | .ldReg _ _ | .orReg _ _ | .andReg _ _ | .xorReg _ _ | .addReg _ _ | .sub _ _ | .shr _ _
  | .subn _ _ | .shl _ _ => .xy0
  | .drw _ _ _ => .xyn
  | .skp _ | .sknp _ | .ldVxDt _ | .ldVxK _ | .ldDtVx _ | .ldStVx _ | .addI _ | .ldF _ | .ldB _ | .stRegs _ | .ldRegs _ => .x

/-- The operands of an instruction as plain numbers, each under its field's name. -/
def Instr.operands : Instr → List (Field × Nat)
  | .cls | .ret => []
  | .jp a | .call a | .ldI a | .jpV0 a => [(.nnn, a.toNat)]
  | .seByte x k | .sneByte x k | .ldByte x k | .addByte x k | .rnd x k => [(.x, x.toNat), (.nn, k.toNat)]
  | .seReg x y | .sneReg x y | .ldReg x y | .orReg x y | .andReg x y | .xorReg x y | .addReg x y | .sub x y | .shr x y
  | .subn x y | .shl x y => [(.x, x.toNat), (.y, y.toNat)]
  | .drw x y n => [(.x, x.toNat), (.y, y.toNat), (.n, n.toNat)]
  | .skp x | .sknp x | .ldVxDt x | .ldVxK x | .ldDtVx x | .ldStVx x | .addI x | .ldF x | .ldB x | .stRegs x | .ldRegs x =>
      [(.x, x.toNat)]

/-- An instruction is well formed when its operands pass the check of its format. A field's type is its width, so every `Instr` is
(`Laws.FieldsFit`); the check itself refuses numbers and field lists that no instruction has (Tests/Slice0.lean). -/
def WellFormed (i : Instr) : Prop := operandsFit i.format i.operands = true

end Sys2Proof
end

