-- ==== Sys2Proof/Decode.lean ====
section
/-! DEFINITION. The decoder and the encoder of 30_encoding.md. `decode` tests field 1 first and then the fixed bits of the row, and
matches the full pattern (R75, 92_eei_decisions.md D12); every other word is rejected as unrecognised (R77, R79). `encode` is written
from the encodings of R73 and opcode_table.json. -/

namespace Sys2Proof

/-- Why bytes are no instruction. `unrecognized` is the word of 30_encoding.md R79, which the step answers with a decode warning;
`truncated` says that fewer than the two bytes of an instruction (R71) were given. -/
inductive DecodeReject where
  | unrecognized (opcode : Word)
  | truncated
deriving DecidableEq, Repr

/-- Field 1, bits 15:12 (30_encoding.md R72). -/
def fieldOp (w : Word) : Nibble := w.extractLsb' 12 4

/-- Field 2, X, bits 11:8 (30_encoding.md R72). -/
def fieldX (w : Word) : Nibble := w.extractLsb' 8 4

/-- Field 3, Y, bits 7:4 (30_encoding.md R72). -/
def fieldY (w : Word) : Nibble := w.extractLsb' 4 4

/-- Field 4, N, bits 3:0 (30_encoding.md R72). -/
def fieldN (w : Word) : Nibble := w.extractLsb' 0 4

/-- NN, bits 7:0 (30_encoding.md R72). -/
def fieldNN (w : Word) : Byte := w.extractLsb' 0 8

/-- NNN, bits 11:0 (30_encoding.md R72). -/
def fieldNNN (w : Word) : Addr12 := w.extractLsb' 0 12

/-- The rows of field 1 = 0: the whole word is fixed (30_encoding.md R75). -/
def decodeZero (nnn : Addr12) : Option Instr :=
  match nnn with
  | 0x0E0#12 => some .cls
  | 0x0EE#12 => some .ret
  | _ => none

/-- The rows of field 1 = 8, told apart by field 4 (30_encoding.md R75). -/
def decodeEight (x y n : Nibble) : Option Instr :=
  match n with
  | 0x0#4 => some (.ldReg x y)
  | 0x1#4 => some (.orReg x y)
  | 0x2#4 => some (.andReg x y)
  | 0x3#4 => some (.xorReg x y)
  | 0x4#4 => some (.addReg x y)
  | 0x5#4 => some (.sub x y)
  | 0x6#4 => some (.shr x y)
  | 0x7#4 => some (.subn x y)
  | 0xE#4 => some (.shl x y)
  | _ => none

/-- The rows of field 1 = 5: field 4 is 0 (30_encoding.md R75). -/
def decodeFive (x y n : Nibble) : Option Instr :=
  match n with
  | 0x0#4 => some (.seReg x y)
  | _ => none

/-- The rows of field 1 = 9: field 4 is 0 (30_encoding.md R75). -/
def decodeNine (x y n : Nibble) : Option Instr :=
  match n with
  | 0x0#4 => some (.sneReg x y)
  | _ => none

/-- The rows of field 1 = E, told apart by the low byte (30_encoding.md R75). -/
def decodeE (x : Nibble) (nn : Byte) : Option Instr :=
  match nn with
  | 0x9E#8 => some (.skp x)
  | 0xA1#8 => some (.sknp x)
  | _ => none

/-- The rows of field 1 = F, told apart by the low byte (30_encoding.md R75). -/
def decodeF (x : Nibble) (nn : Byte) : Option Instr :=
  match nn with
  | 0x07#8 => some (.ldVxDt x)
  | 0x0A#8 => some (.ldVxK x)
  | 0x15#8 => some (.ldDtVx x)
  | 0x18#8 => some (.ldStVx x)
  | 0x1E#8 => some (.addI x)
  | 0x29#8 => some (.ldF x)
  | 0x33#8 => some (.ldB x)
  | 0x55#8 => some (.stRegs x)
  | 0x65#8 => some (.ldRegs x)
  | _ => none

/-- The instruction of a word whose field 1 is `op`, `none` when no row matches (30_encoding.md R75). -/
def decodeFields (op : Nibble) (w : Word) : Option Instr :=
  match op with
  | 0x0#4 => decodeZero (fieldNNN w)
  | 0x1#4 => some (.jp (fieldNNN w))
  | 0x2#4 => some (.call (fieldNNN w))
  | 0x3#4 => some (.seByte (fieldX w) (fieldNN w))
  | 0x4#4 => some (.sneByte (fieldX w) (fieldNN w))
  | 0x5#4 => decodeFive (fieldX w) (fieldY w) (fieldN w)
  | 0x6#4 => some (.ldByte (fieldX w) (fieldNN w))
  | 0x7#4 => some (.addByte (fieldX w) (fieldNN w))
  | 0x8#4 => decodeEight (fieldX w) (fieldY w) (fieldN w)
  | 0x9#4 => decodeNine (fieldX w) (fieldY w) (fieldN w)
  | 0xA#4 => some (.ldI (fieldNNN w))
  | 0xB#4 => some (.jpV0 (fieldNNN w))
  | 0xC#4 => some (.rnd (fieldX w) (fieldNN w))
  | 0xD#4 => some (.drw (fieldX w) (fieldY w) (fieldN w))
  | 0xE#4 => decodeE (fieldX w) (fieldNN w)
  | 0xF#4 => decodeF (fieldX w) (fieldNN w)
  | _ => none  -- a nibble has no other value

/-- `Decode` of 30_encoding.md R75: exactly one instruction of the table, or the word rejected as unrecognised (R79). -/
def decode (w : Word) : Except DecodeReject Instr :=
  match decodeFields (fieldOp w) w with
  | some i => .ok i
  | none => .error (.unrecognized w)

/-- The word of two fetched bytes: the byte at the lower address is bits 15:8 (20_memory.md R51). -/
def joinBytes (hi lo : Byte) : Word := hi ++ lo

/-- The byte at the lower address, bits 15:8 (20_memory.md R51). -/
def highByte (w : Word) : Byte := w.extractLsb' 8 8

/-- The byte at the higher address, bits 7:0 (20_memory.md R51). -/
def lowByte (w : Word) : Byte := w.extractLsb' 0 8

/-- The decoder on any bytes: one instruction from the first two, with the bytes after it (30_encoding.md R71, 20_memory.md R51). -/
def decodeBytes : List Byte → Except DecodeReject (Instr × List Byte)
  | hi :: lo :: rest =>
      match decode (joinBytes hi lo) with
      | .ok i => .ok (i, rest)
      | .error e => .error e
  | _ => .error .truncated

/-- Format NNN: field 1 and the 12-bit immediate (30_encoding.md R73). -/
def encodeNNN (op : Nibble) (nnn : Addr12) : Word := op ++ nnn

/-- Formats XNN and X: field 1, X and the low byte, which format X fixes (30_encoding.md R73). -/
def encodeXNN (op x : Nibble) (nn : Byte) : Word := encodeNNN op (x ++ nn)

/-- Formats XY0 and XYN: field 1, X, Y and field 4, which format XY0 fixes (30_encoding.md R73). -/
def encodeXYN (op x y n : Nibble) : Word := encodeXNN op x (y ++ n)

/-- The opcode of an instruction, from the encodings of opcode_table.json. -/
def encode : Instr → Word
  | .cls => 0x00E0#16
  | .ret => 0x00EE#16
  | .jp nnn => encodeNNN 0x1#4 nnn
  | .call nnn => encodeNNN 0x2#4 nnn
  | .seByte x nn => encodeXNN 0x3#4 x nn
  | .sneByte x nn => encodeXNN 0x4#4 x nn
  | .seReg x y => encodeXYN 0x5#4 x y 0x0#4
  | .ldByte x nn => encodeXNN 0x6#4 x nn
  | .addByte x nn => encodeXNN 0x7#4 x nn
  | .ldReg x y => encodeXYN 0x8#4 x y 0x0#4
  | .orReg x y => encodeXYN 0x8#4 x y 0x1#4
  | .andReg x y => encodeXYN 0x8#4 x y 0x2#4
  | .xorReg x y => encodeXYN 0x8#4 x y 0x3#4
  | .addReg x y => encodeXYN 0x8#4 x y 0x4#4
  | .sub x y => encodeXYN 0x8#4 x y 0x5#4
  | .shr x y => encodeXYN 0x8#4 x y 0x6#4
  | .subn x y => encodeXYN 0x8#4 x y 0x7#4
  | .shl x y => encodeXYN 0x8#4 x y 0xE#4
  | .sneReg x y => encodeXYN 0x9#4 x y 0x0#4
  | .ldI nnn => encodeNNN 0xA#4 nnn
  | .jpV0 nnn => encodeNNN 0xB#4 nnn
  | .rnd x nn => encodeXNN 0xC#4 x nn
  | .drw x y n => encodeXYN 0xD#4 x y n
  | .skp x => encodeXNN 0xE#4 x 0x9E#8
  | .sknp x => encodeXNN 0xE#4 x 0xA1#8
  | .ldVxDt x => encodeXNN 0xF#4 x 0x07#8
  | .ldVxK x => encodeXNN 0xF#4 x 0x0A#8
  | .ldDtVx x => encodeXNN 0xF#4 x 0x15#8
  | .ldStVx x => encodeXNN 0xF#4 x 0x18#8
  | .addI x => encodeXNN 0xF#4 x 0x1E#8
  | .ldF x => encodeXNN 0xF#4 x 0x29#8
  | .ldB x => encodeXNN 0xF#4 x 0x33#8
  | .stRegs x => encodeXNN 0xF#4 x 0x55#8
  | .ldRegs x => encodeXNN 0xF#4 x 0x65#8

/-- The bytes of an instruction as memory holds them, the first at the lower address (20_memory.md R51). -/
def encodeBytes (i : Instr) : List Byte := [highByte (encode i), lowByte (encode i)]

/-- The opcode whose bits are `w`, with every bit from `nbits` up equal to 0. -/
def tableWord (nbits w : Nat) : Word := BitVec.ofNat 16 (w % 2 ^ nbits)

/-- The host's question: what the decoder reads from an opcode-table word, laid out as two big-endian bytes. -/
def decodeTableWord (nbits w : Nat) : Option Instr :=
  match decodeBytes [highByte (tableWord nbits w), lowByte (tableWord nbits w)] with
  | .ok (i, _) => some i
  | .error _ => none

end Sys2Proof
end

