-- ==== Sys2Proof/Config.lean ====
section
/-! DEFINITION. What a model instance fixes: the literals the spec states (00_scope.md R6, rows marked fixed), the model arguments of
R6 with their defaults, and the two free values: the random byte of a STEP (41_alu.md R121, 92_eei_decisions.md D21) and a glyph address that
does not fit (42_index_memory.md R142). -/

namespace Sys2Proof

/-- `MEM_SIZE`: addresses 0..4095 (00_scope.md R6, 20_memory.md R50). -/
abbrev memSize : Nat := 4096

/-- `DISPLAY_W`, the number of columns (00_scope.md R6, 10_state.md R40). -/
abbrev displayWidth : Nat := 64

/-- `DISPLAY_H`, the number of rows (00_scope.md R6, 10_state.md R40). -/
abbrev displayHeight : Nat := 32

/-- `NUM_REGS`, V0..VF (00_scope.md R6, 10_state.md R20). -/
abbrev numRegs : Nat := 16

/-- The length of the font table, 5 bytes for each of 16 glyphs (10_state.md R37). -/
abbrev fontSize : Nat := 80

/-- `START_ADDR`, the reset value of `pc` (10_state.md R28, 70_reset_and_hazards.md R242). -/
def startAddr : Word := 0x0200#16

/-- `BORROW_FLAG_MODE`: how 8XY5 and 8XY7 set VF (41_alu.md R122, 92_eei_decisions.md D5). -/
inductive BorrowFlagMode where
  | intended
  | reference
deriving DecidableEq, Repr

/-- `VF_WRITE_ORDER`: which write of VF wins when X = 0xF (10_state.md R24, 92_eei_decisions.md D7). -/
inductive VfWriteOrder where
  | flagLast
  | resultLast
deriving DecidableEq, Repr

/-- `KEY_TEST_MODE`: the key test of EX9E, EXA1 and QUERY_KEY (44_keys_timers.md R180, 92_eei_decisions.md D8). -/
inductive KeyTestMode where
  | fixed
  | reference
deriving DecidableEq, Repr

/-- The model arguments of 00_scope.md R6. They are fixed for the life of a model instance and no command changes them
(10_state.md R42); `stackDepth = none` is the unbounded stack. -/
structure Config where
  fontBase : Nat
  fontTable : Vector Byte 80
  fontGlyphStride : Nat
  stackDepth : Option Nat
  borrowFlagMode : BorrowFlagMode
  vfWriteOrder : VfWriteOrder
  keyTestMode : KeyTestMode
deriving DecidableEq, Repr

/-- The default `FONT_TABLE` of 10_state.md R37 (92_eei_decisions.md D3; its bytes are item G1 of 93_implementation_defined.md). -/
def Config.defaultFontTable : Vector Byte 80 :=
  #v[0xF0, 0x90, 0x90, 0x90, 0xF0,  -- 0
     0x20, 0x60, 0x20, 0x20, 0x70,  -- 1
     0xF0, 0x10, 0xF0, 0x80, 0xF0,  -- 2
     0xF0, 0x10, 0xF0, 0x10, 0xF0,  -- 3
     0x90, 0x90, 0xF0, 0x10, 0x10,  -- 4
     0xF0, 0x80, 0xF0, 0x10, 0xF0,  -- 5
     0xF0, 0x80, 0xF0, 0x90, 0xF0,  -- 6
     0xF0, 0x10, 0x20, 0x40, 0x40,  -- 7
     0xF0, 0x90, 0xF0, 0x90, 0xF0,  -- 8
     0xF0, 0x90, 0xF0, 0x10, 0xF0,  -- 9
     0xF0, 0x90, 0xF0, 0x90, 0x90,  -- A
     0xE0, 0x90, 0xE0, 0x90, 0xE0,  -- B
     0xF0, 0x80, 0x80, 0x80, 0xF0,  -- C
     0xE0, 0x90, 0x90, 0x90, 0xE0,  -- D
     0xF0, 0x80, 0xF0, 0x80, 0xF0,  -- E
     0xF0, 0x80, 0xF0, 0x80, 0x80]  -- F

/-- The defaults of 00_scope.md R6. -/
def Config.default : Config where
  fontBase := 0x050
  fontTable := Config.defaultFontTable
  fontGlyphStride := 1
  stackDepth := none
  borrowFlagMode := .intended
  vfWriteOrder := .flagLast
  keyTestMode := .fixed

/-- The parameter values the spec's rules make sense for: the font table lies inside memory (10_state.md R37, log entry 4). -/
abbrev Config.wf (c : Config) : Prop := c.fontBase + fontSize ≤ memSize

/-- The condition of 10_state.md R31 under which no instruction takes the index register above 0xFFF. -/
abbrev Config.indexBounded (c : Config) : Prop :=
  c.fontBase + 255 * c.fontGlyphStride ≤ 0xFFF

/-- FREE VALUE. The random byte given to the n-th STEP that takes one (41_alu.md R121: "the model admits every 8-bit value, with no
distribution and no relation between steps"). It has no body, so no proof can use a value of it (log entry 2). -/
opaque Config.randomByte : Nat → Byte

/-- FREE VALUE. What FX29 puts in I when the exact glyph address needs more than 16 bits, which parameters far from the defaults
allow: 42_index_memory.md R142 gives the address as "exact, 16 bits" and states no result there. It has no body, so no proof can use
a value of it (log entry 4). -/
opaque Config.wideGlyphAddr : Nat → Word

end Sys2Proof
end

