-- ==== Sys2Proof/Machine/Display.lean ====
section
/-! DEFINITION. The display grid (10_state.md R40) and the sprite collision detector (43_display.md R161 to R163). -/

namespace Sys2Proof.Machine

/-- The 64 by 32 grid: row `y`, then column `x` (10_state.md R40: row-major; 92_eei_decisions.md D32). -/
abbrev Display := Vector (Vector Bool 64) 32

/-- The display with every cell false (10_state.md R40, 43_display.md R160). -/
def Display.clear : Display := Vector.replicate 32 (Vector.replicate 64 false)

/-- `Disp[x, y]`, column `x` and row `y` (00_scope.md R11). Outside the grid there is no cell; the answer there is false. -/
def Display.cell (d : Display) (x y : Nat) : Bool :=
  match d[y]? with
  | some row => row[x]?.getD false
  | none => false

/-- `Disp[x, y] <- b`. Outside the grid nothing is written (43_display.md R161: such rows and columns are dropped). -/
def Display.setCell (d : Display) (x y : Nat) (b : Bool) : Display :=
  match d[y]? with
  | some row => d.setIfInBounds y (row.setIfInBounds x b)
  | none => d

/-- What a draw works on: the display so far and the collision bit so far (43_display.md R161, `coll`). -/
structure Draw where
  display : Display
  coll : Bool
deriving DecidableEq, Repr

/-- The collision detector on one pixel: the cell becomes `d XOR s` and the pixel's collision bit is `s AND d`; a pixel off the
display touches nothing (43_display.md R162). -/
def drawPixel (acc : Draw) (x y : Nat) (s : Bool) : Draw :=
  if x < displayWidth ∧ y < displayHeight then
    { display := acc.display.setCell x y ((acc.display.cell x y) ^^ s)
      coll := acc.coll || (s && acc.display.cell x y) }
  else acc

/-- The first `k` columns of a sprite row at `(x0, y)`: column `c` is bit `7 - c` of the byte (43_display.md R161, R163). -/
def drawColumns (row : Byte) (x0 y : Nat) (acc : Draw) : Nat → Draw
  | 0 => acc
  | c + 1 => drawPixel (drawColumns row x0 y acc c) (x0 + c) y (row.getLsbD (7 - c))

/-- The first `k` rows of a sprite at `(x0, y0)`, rows in rising address order (43_display.md R161, R163). -/
def drawRows (rows : Nat → Byte) (x0 y0 : Nat) (acc : Draw) : Nat → Draw
  | 0 => acc
  | r + 1 => drawColumns (rows r) x0 (y0 + r) (drawRows rows x0 y0 acc r) 8

/-- The sprite's bit that lands on cell `(x, y)`, false where the sprite does not reach: bit 7 of sprite byte `r` is the pixel at
`(x0, y0 + r)` and bit 0 the pixel at `(x0 + 7, y0 + r)` (43_display.md R163). -/
def spriteBit (rows : Nat → Byte) (x0 y0 n x y : Nat) : Bool :=
  decide (x0 ≤ x ∧ x < x0 + 8 ∧ y0 ≤ y ∧ y < y0 + n) && (rows (y - y0)).getLsbD (7 - (x - x0))

end Sys2Proof.Machine
end

