-- ==== Sys2Proof/Machine/Memory.lean ====
section
/-! DEFINITION. The block's 4096-byte memory (10_state.md R37, 20_memory.md R50) as plain data: the cells whose byte is not 0x00, by
rising address. An address that is not listed reads as 0x00, the reset content of memory outside the font (10_state.md R45,
70_reset_and_hazards.md R240: "memory is zeroed"). The font bytes of a reset memory are listed. -/

namespace Sys2Proof.Machine

/-- Memory: the listed cells, an address and its byte. -/
abbrev Memory := List Host.Cell

/-- What an address that is not listed reads as (10_state.md R45: 0x00). -/
def unlistedByte : Byte := 0x00#8

/-- The byte at an address (20_memory.md R60: the last byte written, or the reset byte). -/
def Memory.read : Memory → Nat → Byte
  | [], _ => unlistedByte
  | (b, w) :: m, a => if b = a then w else Memory.read m a

/-- Memory without a cell for the address: it then reads as the unlisted byte. -/
def Memory.unlist (m : Memory) (a : Nat) : Memory := m.filter (fun c => decide (c.1 ≠ a))

/-- Put a cell in at its place among cells of rising address. -/
def Memory.enlist (a : Nat) (v : Byte) : Memory → Memory
  | [] => [(a, v)]
  | (b, w) :: m => if a < b then (a, v) :: (b, w) :: m else (b, w) :: Memory.enlist a v m

/-- Write one byte, keeping the canonical form: writing what an unlisted address reads as removes the cell. -/
def Memory.write (m : Memory) (a : Nat) (v : Byte) : Memory :=
  if v = unlistedByte then Memory.unlist m a else Memory.enlist a v (Memory.unlist m a)

/-- Write consecutive bytes, the first at the lowest address, in rising order (42_index_memory.md R144). -/
def Memory.writeBytes (m : Memory) (base : Nat) : List Byte → Memory
  | [] => m
  | b :: bs => Memory.writeBytes (Memory.write m base b) (base + 1) bs

/-- Memory after `RESET`: zero but for the font table at `FONT_BASE` (70_reset_and_hazards.md R240, R241). -/
def Memory.afterReset (c : Config) : Memory := Memory.writeBytes [] c.fontBase c.fontTable.toList

/-- The canonical form: addresses strictly rising and inside memory, and no cell equal to what an unlisted address reads as. -/
abbrev Memory.wf (m : Memory) : Prop :=
  m.Pairwise (fun c d => c.1 < d.1) ∧ ∀ c ∈ m, c.1 < memSize ∧ c.2 ≠ unlistedByte

end Sys2Proof.Machine
end

