-- ==== Sys2Proof/Machine/State.lean ====
section
/-! DEFINITION. The state of the block (10_state.md) as plain data, its value after `RESET` (R45, 70_reset_and_hazards.md R240), and
the reasons an operation can be faulted or refused. -/

namespace Sys2Proof.Machine

/-- The fatal faults of 60_exceptions.md R200. The spec gives each of them an effect: the step changes nothing but the fault latch
(R204) and the block is halted until `RESET` (R205). So they are the values of the latch's code, and a step that raises one answers
a NEXT state with the latch set; `Host.Outcome.fault` is never answered. -/
inductive Fault where
  /-- Code 1: raised by 00EE on an empty call stack (60_exceptions.md R201). Latched, never an outcome: exact, safe. -/
  | stackUnderflow
  /-- Code 2: raised by the fetch of any STEP with `pc >= 0x0FFF` (60_exceptions.md R202). Latched, never an outcome: exact, safe. -/
  | fetchOutOfRange
  /-- Code 3: raised by DXYN, FX33, FX55 and FX65 (60_exceptions.md R203). Latched, never an outcome: exact, safe. -/
  | dataOutOfRange
  /-- Code 4: raised by 2NNN when `STACK_DEPTH` is finite (60_exceptions.md R206). Latched, never an outcome: exact, safe. -/
  | stackOverflow
deriving DecidableEq, Repr

/-- Why the model gives no transition. -/
inductive Refusal where
  /-- Raised by an arm of `exec` whose instruction has no meaning yet; no arm of this model raises it. Safe. -/
  | notModelled (mnemonic : String)
  /-- Raised by the host commands SET_KEY and QUERY_KEY with a key outside 0..15: the spec refuses them (60_exceptions.md R222, R223,
  92_eei_decisions.md D31). Safe. -/
  | keyOutOfRange
  /-- Raised by the host command HOST_WRITE with an address of 4096 or more: the spec refuses it (20_memory.md R65). Safe. -/
  | hostAddressOutOfRange
deriving DecidableEq, Repr

/-- The fault latch of 10_state.md R44. `cause = none` is code 0, `NONE`. -/
structure FaultLatch where
  cause : Option Fault
  pc : Word
  opcode : Word
  addr : Word
deriving DecidableEq, Repr

/-- The latch with no fault: every field 0 (10_state.md R44, R45). -/
def FaultLatch.clear : FaultLatch := { cause := none, pc := 0#16, opcode := 0#16, addr := 0#16 }

/-- One record of the diagnostic channel (10_state.md R43). -/
structure DiagRecord where
  opcode : Word
  addr : Word
deriving DecidableEq, Repr

/-- The state of the block, every piece that 10_state.md lists, and three fields of the model's own: `cfg`, `rnd` and `draws`. -/
structure State where
  /-- V0..VF (10_state.md R20) -/
  v : Vector Byte 16
  /-- the program counter (R26) -/
  pc : Word
  /-- the index register I (R31) -/
  index : Word
  /-- the call stack, the top LAST: `push` appends the new top (R29) -/
  stack : List Word
  /-- the delay timer DT (R32) -/
  dt : Byte
  /-- the sound timer ST (R33) -/
  st : Byte
  /-- the keyboard bitmask KB, bit k for key k (R34) -/
  keys : Word
  /-- quirks_mode (R35) -/
  quirks : Bool
  /-- memory (R37) -/
  mem : Memory
  /-- the display (R40) -/
  display : Display
  /-- the fault latch (R44) -/
  fault : FaultLatch
  /-- the diagnostic channel, the latest record last (R43) -/
  diag : List DiagRecord
  /-- DESIGN CHOICE (log entry 1): the model arguments of 00_scope.md R6; no step and no command changes them (R42) -/
  cfg : Config
  /-- DESIGN CHOICE (log entry 2): `rnd`, the random byte argument of the current STEP (00_scope.md R11) -/
  rnd : Byte
  /-- DESIGN CHOICE (log entry 2): how many STEPs have taken a random byte -/
  draws : Nat
deriving DecidableEq, Repr

/-- The state after `RESET` of a model instance with the given parameters (10_state.md R45, 70_reset_and_hazards.md R240). -/
def State.resetWith (c : Config) : State where
  v := Vector.replicate 16 0x00#8
  pc := startAddr
  index := 0x0000#16
  stack := []
  dt := 0x00#8
  st := 0x00#8
  keys := 0x0000#16
  quirks := false
  mem := Memory.afterReset c
  display := Display.clear
  fault := FaultLatch.clear
  diag := []
  cfg := c
  rnd := 0x00#8
  draws := 0

/-- The state after `RESET` with the default parameters of 00_scope.md R6. -/
def State.reset : State := State.resetWith Config.default

end Sys2Proof.Machine
end

