-- ==== Sys2Proof/Machine/Ops.lean ====
section
/-! DEFINITION. The named operations over the state: the halted check, raising a fault, the address translator, the fetch, the pc,
the call stack, the decode warning and the display. Raising a fault is ONE operation, `State.raise`, written from
60_exceptions.md R204. The block has no trap return (60_exceptions.md R209), so no operation stands beside it. -/

namespace Sys2Proof.Machine

/-- A fault is latched: the block is halted (60_exceptions.md R205). -/
def State.halted (s : State) : Bool := decide (s.fault.cause ≠ none)

/-- The address translator's access kinds (20_memory.md R55). -/
inductive AccessKind where
  | fetch
  | data
deriving DecidableEq, Repr

/-- What `raise Fault(code, addr)` hands to the latch (00_scope.md R11, 10_state.md R44). -/
structure FaultInfo where
  cause : Fault
  addr : Word
deriving DecidableEq, Repr

/-- `Translate(a, kind)` of 20_memory.md R55: the identity below 4096, else the fault of the access kind. -/
def translate (kind : AccessKind) (a : Nat) : Except FaultInfo Nat :=
  if a < memSize then .ok a
  else
    .error
      { cause := match kind with
          | .fetch => .fetchOutOfRange
          | .data => .dataOutOfRange
        addr := BitVec.ofNat 16 a }

/-- Translate the whole range `base .. base + n - 1` before any access, lowest address first (20_memory.md R57). -/
def translateRange (kind : AccessKind) (base : Nat) : Nat → Except FaultInfo Unit
  | 0 => .ok ()
  | n + 1 =>
      match translateRange kind base n with
      | .error e => .error e
      | .ok () =>
          match translate kind (base + n) with
          | .error e => .error e
          | .ok _ => .ok ()

/-- Raise a fault in the state from before the step: nothing changes but the latch, which takes the code, the instruction's address
`pc0`, the opcode and the out-of-range address (60_exceptions.md R204), and which keeps the first fault (10_state.md R44). -/
def State.raise (s : State) (cause : Fault) (opcode addr : Word) : State :=
  if s.halted then s
  else { s with fault := { cause := some cause, pc := s.pc, opcode := opcode, addr := addr } }

/-- An instruction that accesses the `n` bytes from I: the fault of the first address out of range, or the given next state
(20_memory.md R57). -/
def State.withDataRange (s : State) (opcode : Word) (n : Nat) (t : State) : Host.Outcome State Fault Refusal :=
  match translateRange .data s.index.toNat n with
  | .ok () => .next t
  | .error e => .next (s.raise e.cause opcode e.addr)

/-- The fetch of 30_encoding.md R70: translate `pc` and `pc + 1`, exact sums (20_memory.md R56), and join the two bytes big-endian
(R51). -/
def State.fetch (s : State) : Except FaultInfo Word :=
  match translateRange .fetch s.pc.toNat 2 with
  | .ok () => .ok (joinBytes (s.mem.read s.pc.toNat) (s.mem.read (s.pc.toNat + 1)))
  | .error e => .error e

/-- The advance of `pc` past the instruction, made before it executes (10_state.md R26, 30_encoding.md R70). -/
def State.advance (s : State) : State := { s with pc := s.pc + 2#16 }

/-- `pc <- target`. -/
def State.jump (s : State) (target : Word) : State := { s with pc := target }

/-- A skip: `pc <- pc + 2` on the advanced pc when the condition holds (40_control_flow.md R99). -/
def State.skipIf (s : State) (c : Bool) : State :=
  if c then { s with pc := s.pc + 2#16 } else s

/-- The rewind of FX0A: `pc <- pc - 2` on the advanced pc (44_keys_timers.md R184). -/
def State.rewind (s : State) : State := { s with pc := s.pc - 2#16 }

/-- `push(v)`: append `v` as the new top (10_state.md R29). -/
def State.push (s : State) (v : Word) : State := { s with stack := s.stack ++ [v] }

/-- The stack is full: only with a finite `STACK_DEPTH` (10_state.md R29, 40_control_flow.md R92). -/
def State.stackFull (s : State) : Bool :=
  match s.cfg.stackDepth with
  | none => false
  | some depth => decide (depth ≤ s.stack.length)

/-- `I <- v`. -/
def State.setIndex (s : State) (v : Word) : State := { s with index := v }

/-- Write consecutive bytes from I, whose range has been translated (42_index_memory.md R143, R144). -/
def State.storeAtIndex (s : State) (bytes : List Byte) : State :=
  { s with mem := s.mem.writeBytes s.index.toNat bytes }

/-- `FB <- d` (10_state.md R40). -/
def State.setDisplay (s : State) (d : Display) : State := { s with display := d }

/-- `DT <- b` (44_keys_timers.md R185). -/
def State.setDt (s : State) (b : Byte) : State := { s with dt := b }

/-- `ST <- b` (44_keys_timers.md R186). -/
def State.setSt (s : State) (b : Byte) : State := { s with st := b }

/-- Clear the display and nothing else (43_display.md R160, 60_exceptions.md R227). -/
def State.clearDisplay (s : State) : State := { s with display := Display.clear }

/-- `warn(opcode, pc0)` and the advance: what executing UNRECOGNIZED does (30_encoding.md R79), on the state from before the
advance. -/
def State.warn (s : State) (opcode : Word) : State :=
  { s.advance with diag := s.diag ++ [{ opcode := opcode, addr := s.pc }] }

/-- Give the current STEP its random byte (00_scope.md R7, R11; log entry 2). -/
def State.supplyRnd (s : State) (r : Byte) : State := { s with rnd := r, draws := s.draws + 1 }

/-- The opcode `w`, big-endian, put where the next fetch reads, when both bytes are inside memory (20_memory.md R51, R56). -/
def State.placeWord (s : State) (w : Word) : State :=
  if s.pc.toNat + 1 < memSize then
    { s with mem := s.mem.writeBytes s.pc.toNat [highByte w, lowByte w] }
  else s

end Sys2Proof.Machine
end

