-- ==== Sys2Proof/Machine/Operands.lean ====
section
/-! DEFINITION. The operand forms: registers X and Y, the immediates NN and NNN, the index-plus-offset bytes of memory, the blocks
V0..VX, the keys and the decimal digits (30_encoding.md R72, R74; 42_index_memory.md R146; 44_keys_timers.md R180). -/

namespace Sys2Proof.Machine

/-- `V[x]`: no register is hard-wired or aliased (10_state.md R20). -/
def State.getV (s : State) (x : Nibble) : Byte := s.v[x.toNat]'x.isLt

/-- `V[x] <- b` (00_scope.md R11). -/
def State.setV (s : State) (x : Nibble) (b : Byte) : State := { s with v := s.v.set x.toNat b x.isLt }

/-- The number of VF, the flag register (10_state.md R21). -/
def vf : Nibble := 0xF#4

/-- `zext_16(NNN)` (30_encoding.md R74). -/
def immAddr (nnn : Addr12) : Word := nnn.setWidth 16

/-- `zext_16` of a register (30_encoding.md R74). -/
def zextByte (b : Byte) : Word := b.setWidth 16

/-- The register BNNN adds: V0, or in quirks mode the one named by NNN[11:8] (40_control_flow.md R97). -/
def State.jumpOffset (s : State) (nnn : Addr12) : Byte :=
  if s.quirks then s.getV (nnn.extractLsb' 8 4) else s.getV 0x0#4

/-- The source of 8XY6 and 8XYE: VX in quirks mode, else VY (10_state.md R35, 41_alu.md R118, R120). -/
def State.shiftSource (s : State) (x y : Nibble) : Byte :=
  if s.quirks then s.getV x else s.getV y

/-- `MemRead(I + k, 1)`, an address that has been translated (42_index_memory.md R146). -/
def State.readAtIndex (s : State) (k : Nat) : Byte := s.mem.read (s.index.toNat + k)

/-- V0..VX in order, the bytes FX55 stores (42_index_memory.md R144). -/
def State.regsUpTo (s : State) (x : Nibble) : List Byte := s.v.toList.take (x.toNat + 1)

/-- V0..VX from the bytes at I, I + 1, ..., I + X, the other registers unchanged (42_index_memory.md R145). -/
def State.loadRegsUpTo (s : State) (x : Nibble) : State :=
  { s with v := Vector.ofFn (fun k : Fin 16 => if k.val ≤ x.toNat then s.readAtIndex k.val else s.v[k]) }

/-- The decimal digits of a byte, hundreds, tens, units (42_index_memory.md R143). -/
def bcdDigits (a : Byte) : List Byte :=
  [BitVec.ofNat 8 (a.toNat / 100), BitVec.ofNat 8 (a.toNat / 10 % 10), BitVec.ofNat 8 (a.toNat % 10)]

/-- The glyph address of FX29: `FONT_BASE + VX * FONT_GLYPH_STRIDE`, exact, VX not masked (42_index_memory.md R142); a free value where
the exact address needs more than 16 bits (log entry 4). -/
def glyphAddr (c : Config) (a : Byte) : Word :=
  if c.fontBase + a.toNat * c.fontGlyphStride ≤ 0xFFFF then BitVec.ofNat 16 (c.fontBase + a.toNat * c.fontGlyphStride)
  else Config.wideGlyphAddr (c.fontBase + a.toNat * c.fontGlyphStride)

/-- The low four bits of VX, the key that EX9E and EXA1 test (44_keys_timers.md R181: "key (VX mod 16)"). -/
def keyOf (a : Byte) : Nat := a.toNat % 16

/-- `key_down(k)` of 44_keys_timers.md R180, by `KEY_TEST_MODE`: the bit itself, or the masked word compared with 1. -/
def keyDown (mode : KeyTestMode) (kb : Word) (k : Nat) : Bool :=
  match mode with
  | .fixed => kb.getLsbD k
  | .reference => decide (kb &&& (1#16 <<< k) = 1#16)

/-- The lowest-numbered pressed key, none when `KB = 0` (44_keys_timers.md R184). -/
def lowestKey (kb : Word) : Option Nat := (List.range 16).find? (fun k => kb.getLsbD k)

end Sys2Proof.Machine
end

