-- ==== Sys2Proof/Machine/Flags.lean ====
section
/-! DEFINITION. The flag computations and the writeback of the ALU and of FX1E (10_state.md R24, R38; 41_alu.md R116 to R123;
42_index_memory.md R141). VF is the only flag (10_state.md R39). -/

namespace Sys2Proof.Machine

/-- `zext_8(flag)`. -/
def flagByte (f : Bool) : Byte := if f then 0x01#8 else 0x00#8

/-- The carry of 8XY4: the exact sum exceeds 255. Without it VF is not written, `none` (41_alu.md R116). -/
def carryFlag (a b : Byte) : Option Bool := if a.toNat + b.toNat > 255 then some true else none

/-- `borrow(p, q)` of 41_alu.md R122. -/
def borrowFlag (mode : BorrowFlagMode) (p q : Byte) : Bool :=
  match mode with
  | .intended => decide (q.toNat ≤ p.toNat)
  | .reference => true

/-- `WB(X, result, flag)` of 41_alu.md R123: the order of the two writes decides VF when X = 0xF (10_state.md R24). -/
def State.writeBack (s : State) (x : Nibble) (result : Byte) (flag : Option Bool) : State :=
  match flag with
  | none => s.setV x result
  | some f =>
      match s.cfg.vfWriteOrder with
      | .flagLast => (s.setV x result).setV vf (flagByte f)
      | .resultLast => (s.setV vf (flagByte f)).setV x result

/-- FX1E: the exact sum, wrapped modulo 0x1000 with VF = 1 when it exceeds 0xFFF, else VF not written (42_index_memory.md R141,
92_eei_decisions.md D19). -/
def State.addToIndex (s : State) (a : Byte) : State :=
  if s.index.toNat + a.toNat > 0x0FFF then
    (s.setIndex (BitVec.ofNat 16 ((s.index.toNat + a.toNat) % 0x1000))).setV vf 0x01#8
  else s.setIndex (BitVec.ofNat 16 (s.index.toNat + a.toNat))

end Sys2Proof.Machine
end

