-- ==== Sys2Proof/Machine/Alu.lean ====
section
/-! DEFINITION. The 8-bit ALU instructions (41_alu.md). Every register is read in the state from before the step (00_scope.md R11,
92_eei_decisions.md D6); the addition and subtraction of bytes wrap modulo 256 (R124). -/

namespace Sys2Proof.Machine

/-- 6XNN LD Vx, byte (41_alu.md R110). -/
def execLdByte (x : Nibble) (nn : Byte) (s : State) : Host.Outcome State Fault Refusal :=
  .next (s.advance.setV x nn)

/-- 7XNN ADD Vx, byte: no flag (41_alu.md R111). -/
def execAddByte (x : Nibble) (nn : Byte) (s : State) : Host.Outcome State Fault Refusal :=
  .next (s.advance.setV x (s.getV x + nn))

/-- 8XY0 LD Vx, Vy (41_alu.md R112). -/
def execLdReg (x y : Nibble) (s : State) : Host.Outcome State Fault Refusal :=
  .next (s.advance.setV x (s.getV y))

/-- 8XY1 OR Vx, Vy: no flag (41_alu.md R113). -/
def execOrReg (x y : Nibble) (s : State) : Host.Outcome State Fault Refusal :=
  .next (s.advance.setV x (s.getV x ||| s.getV y))

/-- 8XY2 AND Vx, Vy: no flag (41_alu.md R114). -/
def execAndReg (x y : Nibble) (s : State) : Host.Outcome State Fault Refusal :=
  .next (s.advance.setV x (s.getV x &&& s.getV y))

/-- 8XY3 XOR Vx, Vy: no flag (41_alu.md R115). -/
def execXorReg (x y : Nibble) (s : State) : Host.Outcome State Fault Refusal :=
  .next (s.advance.setV x (s.getV x ^^^ s.getV y))

/-- 8XY4 ADD Vx, Vy: VF = 1 on carry, else VF not written (41_alu.md R116). -/
def execAddReg (x y : Nibble) (s : State) : Host.Outcome State Fault Refusal :=
  .next (s.advance.writeBack x (s.getV x + s.getV y) (carryFlag (s.getV x) (s.getV y)))

/-- 8XY5 SUB Vx, Vy (41_alu.md R117). -/
def execSub (x y : Nibble) (s : State) : Host.Outcome State Fault Refusal :=
  .next (s.advance.writeBack x (s.getV x - s.getV y) (some (borrowFlag s.cfg.borrowFlagMode (s.getV x) (s.getV y))))

/-- 8XY6 SHR Vx, Vy: VF = bit 0 of the source (41_alu.md R118). -/
def execShr (x y : Nibble) (s : State) : Host.Outcome State Fault Refusal :=
  .next (s.advance.writeBack x (s.shiftSource x y >>> 1) (some ((s.shiftSource x y).getLsbD 0)))

/-- 8XY7 SUBN Vx, Vy (41_alu.md R119). -/
def execSubn (x y : Nibble) (s : State) : Host.Outcome State Fault Refusal :=
  .next (s.advance.writeBack x (s.getV y - s.getV x) (some (borrowFlag s.cfg.borrowFlagMode (s.getV y) (s.getV x))))

/-- 8XYE SHL Vx, Vy: VF = bit 7 of the source (41_alu.md R120). -/
def execShl (x y : Nibble) (s : State) : Host.Outcome State Fault Refusal :=
  .next (s.advance.writeBack x (s.shiftSource x y <<< 1) (some ((s.shiftSource x y).getLsbD 7)))

/-- CXNN RND Vx, byte: the STEP's random byte, masked (41_alu.md R121). -/
def execRnd (x : Nibble) (nn : Byte) (s : State) : Host.Outcome State Fault Refusal :=
  .next (s.advance.setV x (nn &&& s.rnd))

end Sys2Proof.Machine
end

