-- ==== Sys2Proof/Machine/ControlFlow.lean ====
section
/-! DEFINITION. Control transfer: return, jump, call, the conditional skips and the jump with offset (40_control_flow.md). A meaning
takes the state from before the step, whose `pc` is the instruction's own address `pc0`, and makes the advance itself. -/

namespace Sys2Proof.Machine

/-- 00EE RET (40_control_flow.md R90): pop the call stack into `pc`, or STACK_UNDERFLOW with addr 0 (60_exceptions.md R201). -/
def execRet (s : State) : Host.Outcome State Fault Refusal :=
  match s.stack.getLast? with
  | none => .next (s.raise .stackUnderflow (encode .ret) 0x0000#16)
  | some a => .next { s with stack := s.stack.dropLast, pc := a }

/-- 1NNN JP addr (40_control_flow.md R91). -/
def execJp (nnn : Addr12) (s : State) : Host.Outcome State Fault Refusal :=
  .next (s.advance.jump (immAddr nnn))

/-- 2NNN CALL addr (40_control_flow.md R92): push the advanced `pc` and jump, or STACK_OVERFLOW when the stack is full
(60_exceptions.md R206). -/
def execCall (nnn : Addr12) (s : State) : Host.Outcome State Fault Refusal :=
  if s.stackFull then .next (s.raise .stackOverflow (encode (.call nnn)) 0x0000#16)
  else .next ((s.advance.push s.advance.pc).jump (immAddr nnn))

/-- 3XNN SE Vx, byte (40_control_flow.md R93). -/
def execSeByte (x : Nibble) (nn : Byte) (s : State) : Host.Outcome State Fault Refusal :=
  .next (s.advance.skipIf (decide (s.getV x = nn)))

/-- 4XNN SNE Vx, byte (40_control_flow.md R94). -/
def execSneByte (x : Nibble) (nn : Byte) (s : State) : Host.Outcome State Fault Refusal :=
  .next (s.advance.skipIf (decide (s.getV x ≠ nn)))

/-- 5XY0 SE Vx, Vy (40_control_flow.md R95). -/
def execSeReg (x y : Nibble) (s : State) : Host.Outcome State Fault Refusal :=
  .next (s.advance.skipIf (decide (s.getV x = s.getV y)))

/-- 9XY0 SNE Vx, Vy (40_control_flow.md R96). -/
def execSneReg (x y : Nibble) (s : State) : Host.Outcome State Fault Refusal :=
  .next (s.advance.skipIf (decide (s.getV x ≠ s.getV y)))

/-- BNNN JP V0, addr (40_control_flow.md R97): the exact 16-bit sum, not wrapped (92_eei_decisions.md D16). -/
def execJpV0 (nnn : Addr12) (s : State) : Host.Outcome State Fault Refusal :=
  .next (s.advance.jump (immAddr nnn + zextByte (s.jumpOffset nnn)))

end Sys2Proof.Machine
end

