-- ==== Sys2Proof/Machine/DisplayInstr.lean ====
section
/-! DEFINITION. The display instructions (43_display.md). -/

namespace Sys2Proof.Machine

/-- 00E0 CLS: VF is not changed (43_display.md R160). -/
def execCls (s : State) : Host.Outcome State Fault Refusal := .next s.advance.clearDisplay

/-- The draw of DXYN on the state from before the step: the coordinates are VX mod 64 and VY mod 32, and the collision bit starts at 0
(43_display.md R161). -/
def State.drawSprite (s : State) (x y n : Nibble) : Draw :=
  drawRows s.readAtIndex ((s.getV x).toNat % displayWidth) ((s.getV y).toNat % displayHeight)
    { display := s.display, coll := false } n.toNat

/-- DXYN DRW Vx, Vy, nibble: every row's address is checked first, also of rows that fall off the display (92_eei_decisions.md D17);
VF becomes the collision bit, always (43_display.md R161, R162). -/
def execDrw (x y n : Nibble) (s : State) : Host.Outcome State Fault Refusal :=
  s.withDataRange (encode (.drw x y n)) n.toNat
    ((s.advance.setDisplay (s.drawSprite x y n).display).setV vf (flagByte (s.drawSprite x y n).coll))

end Sys2Proof.Machine
end

