-- ==== Sys2Proof/Machine/IndexMemory.lean ====
section
/-! DEFINITION. The index register and memory instructions (42_index_memory.md). An instruction that accesses memory translates its
whole range first, and faults with no other effect when an address is out of range (20_memory.md R57). I is never changed by FX33,
FX55 or FX65 (10_state.md R31, 92_eei_decisions.md D20). -/

namespace Sys2Proof.Machine

/-- ANNN LD I, addr (42_index_memory.md R140). -/
def execLdI (nnn : Addr12) (s : State) : Host.Outcome State Fault Refusal :=
  .next (s.advance.setIndex (immAddr nnn))

/-- FX1E ADD I, Vx (42_index_memory.md R141). -/
def execAddI (x : Nibble) (s : State) : Host.Outcome State Fault Refusal :=
  .next (s.advance.addToIndex (s.getV x))

/-- FX29 LD F, Vx (42_index_memory.md R142). -/
def execLdF (x : Nibble) (s : State) : Host.Outcome State Fault Refusal :=
  .next (s.advance.setIndex (glyphAddr s.cfg (s.getV x)))

/-- FX33 LD B, Vx (42_index_memory.md R143). -/
def execLdB (x : Nibble) (s : State) : Host.Outcome State Fault Refusal :=
  s.withDataRange (encode (.ldB x)) 3 (s.advance.storeAtIndex (bcdDigits (s.getV x)))

/-- FX55 LD [I], Vx (42_index_memory.md R144). -/
def execStRegs (x : Nibble) (s : State) : Host.Outcome State Fault Refusal :=
  s.withDataRange (encode (.stRegs x)) (x.toNat + 1) (s.advance.storeAtIndex (s.regsUpTo x))

/-- FX65 LD Vx, [I] (42_index_memory.md R145). -/
def execLdRegs (x : Nibble) (s : State) : Host.Outcome State Fault Refusal :=
  s.withDataRange (encode (.ldRegs x)) (x.toNat + 1) (s.advance.loadRegsUpTo x)

end Sys2Proof.Machine
end

