-- ==== Sys2Proof/Machine/KeysTimers.lean ====
section
/-! DEFINITION. The key and timer instructions (44_keys_timers.md). -/

namespace Sys2Proof.Machine

/-- EX9E SKP Vx (44_keys_timers.md R181). -/
def execSkp (x : Nibble) (s : State) : Host.Outcome State Fault Refusal :=
  .next (s.advance.skipIf (keyDown s.cfg.keyTestMode s.keys (keyOf (s.getV x))))

/-- EXA1 SKNP Vx (44_keys_timers.md R182). -/
def execSknp (x : Nibble) (s : State) : Host.Outcome State Fault Refusal :=
  .next (s.advance.skipIf (!keyDown s.cfg.keyTestMode s.keys (keyOf (s.getV x))))

/-- FX07 LD Vx, DT (44_keys_timers.md R183). -/
def execLdVxDt (x : Nibble) (s : State) : Host.Outcome State Fault Refusal :=
  .next (s.advance.setV x s.dt)

/-- FX0A LD Vx, K: the lowest-numbered pressed key, or the rewind of `pc` when no key is pressed. It reads KB directly, so
KEY_TEST_MODE does not matter (44_keys_timers.md R184, 92_eei_decisions.md D30). -/
def execLdVxK (x : Nibble) (s : State) : Host.Outcome State Fault Refusal :=
  match lowestKey s.keys with
  | none => .next s.advance.rewind
  | some k => .next (s.advance.setV x (BitVec.ofNat 8 k))

/-- FX15 LD DT, Vx (44_keys_timers.md R185). -/
def execLdDtVx (x : Nibble) (s : State) : Host.Outcome State Fault Refusal :=
  .next (s.advance.setDt (s.getV x))

/-- FX18 LD ST, Vx (44_keys_timers.md R186). -/
def execLdStVx (x : Nibble) (s : State) : Host.Outcome State Fault Refusal :=
  .next (s.advance.setSt (s.getV x))

end Sys2Proof.Machine
end

