-- ==== Sys2Proof/Machine/Sequencer.lean ====
section
/-! DEFINITION. The sequencer: one `STEP(rnd)` (30_encoding.md R70), with the checks in the order of 60_exceptions.md R208. -/

namespace Sys2Proof.Machine

/-- `STEP(rnd)`. Halted: no effect at all (60_exceptions.md R205). A fetch out of range latches its fault with opcode 0 (20_memory.md
R56). An unrecognised word warns and goes on (30_encoding.md R79). Else the decoded instruction executes, on the state whose `pc` is
still its own address: each meaning makes the advance itself, so that a fault leaves `pc` at `pc0` (60_exceptions.md R204). -/
def stepWith (r : Byte) (s : State) : Host.Outcome State Fault Refusal :=
  if s.halted then .next s
  else
    match s.fetch with
    | .error e => .next ((s.supplyRnd r).raise e.cause 0x0000#16 e.addr)
    | .ok w =>
        match decode w with
        | .ok i => exec i (s.supplyRnd r)
        | .error _ => .next ((s.supplyRnd r).warn w)

end Sys2Proof.Machine
end

