-- ==== Sys2Proof/Machine/Step.lean ====
section
/-! DEFINITION. The machine's step, a `STEP` whose random byte is a free value (41_alu.md R121, 92_eei_decisions.md D21), and where
the host places an instruction for the next fetch. -/

namespace Sys2Proof.Machine

/-- One `STEP(rnd)` with `rnd` the next free byte. -/
def step (s : State) : Host.Outcome State Fault Refusal := stepWith (Config.randomByte s.draws) s

/-- The state with the instruction whose bits are `w` (numbered as spec/opcode_table.json numbers them) stored at `pc` and `pc + 1`,
where the next fetch reads it (20_memory.md R51). -/
def State.withFetchWord (s : State) (nbits w : Nat) : State := s.placeWord (tableWord nbits w)

end Sys2Proof.Machine
end

