-- ==== Sys2Proof/Machine/Commands.lean ====
section
/-! DEFINITION. The host's commands (00_scope.md R7, 60_exceptions.md R220 to R228, 20_memory.md R65, 70_reset_and_hazards.md R240)
and the outputs (00_scope.md R8). Each command is one atomic transition; the host issues them one at a time, in any order
(00_scope.md R9). All but STEP act while the block is halted (60_exceptions.md R205). -/

namespace Sys2Proof.Machine

/-- The commands of 00_scope.md R7, and only these. -/
inductive Command where
  | reset
  | step (rnd : Byte)
  | tick
  | setKey (key : Nat) (pressed : Bool)
  | queryKey (key : Nat)
  | hostWrite (addr : Nat) (byte : Byte)
  | copyState (source : State)
  | clearDisplay
  | setQuirks (q : Bool)
deriving DecidableEq, Repr

/-- One timer at a `TICK`: less 1 while nonzero (60_exceptions.md R220). -/
def tickTimer (t : Byte) : Byte := if t = 0x00#8 then t else t - 1#8

/-- `TICK` (60_exceptions.md R220). -/
def State.tick (s : State) : State := { s with dt := tickTimer s.dt, st := tickTimer s.st }

/-- `KB[key] <- pressed` for a key in 0..15 (60_exceptions.md R222). -/
def setKeyBit (kb : Word) (key : Nat) (pressed : Bool) : Word :=
  if pressed then kb ||| (1#16 <<< key) else kb &&& ~~~(1#16 <<< key)

/-- `RESET`: the reset state of the same model instance (70_reset_and_hazards.md R240); the parameters stay (10_state.md R42). The
counter of random bytes goes on, so that the bytes after a RESET are not those from before it (log entry 2). -/
def State.resetCommand (s : State) : State := { State.resetWith s.cfg with draws := s.draws }

/-- `COPY_STATE(source)`: the snapshot fields become the source's; the latch, `diag` and the parameters stay (10_state.md R46,
60_exceptions.md R226). -/
def State.copyFrom (s source : State) : State :=
  { s with
    v := source.v
    pc := source.pc
    index := source.index
    stack := source.stack
    dt := source.dt
    st := source.st
    keys := source.keys
    quirks := source.quirks
    mem := source.mem
    display := source.display }

/-- One command of the host. -/
def perform (c : Command) (s : State) : Host.Outcome State Fault Refusal :=
  match c with
  | .reset => .next s.resetCommand
  | .step r => stepWith r s
  | .tick => .next s.tick
  | .setKey key pressed =>
      if key < 16 then .next { s with keys := setKeyBit s.keys key pressed } else .refused .keyOutOfRange
  | .queryKey key => if key < 16 then .next s else .refused .keyOutOfRange
  | .hostWrite addr byte =>
      if addr < memSize then .next { s with mem := s.mem.write addr byte } else .refused .hostAddressOutOfRange
  | .copyState source => .next (s.copyFrom source)
  | .clearDisplay => .next s.clearDisplay
  | .setQuirks q => .next { s with quirks := q }

/-- What `QUERY_KEY(key)` returns (60_exceptions.md R223). -/
def queryKey (key : Nat) (s : State) : Except Refusal Bool :=
  if key < 16 then .ok (keyDown s.cfg.keyTestMode s.keys key) else .error .keyOutOfRange

/-- The commands of a list, one after the other, stopping at a refusal (00_scope.md R9). -/
def performAll : List Command → State → Host.Outcome State Fault Refusal
  | [], s => .next s
  | c :: cs, s =>
      match perform c s with
      | .next t => performAll cs t
      | .fault r => .fault r
      | .refused r => .refused r

/-- The output `sound_active` (00_scope.md R8, 10_state.md R33). -/
def State.soundActive (s : State) : Bool := decide (s.st ≠ 0x00#8)

/-- The host's read of a memory byte, at an address inside memory (00_scope.md R8, 20_memory.md R65). -/
def State.hostRead (s : State) (addr : Nat) : Except Refusal Byte :=
  if addr < memSize then .ok (s.mem.read addr) else .error .hostAddressOutOfRange

/-- The 3-bit `fault.code` of the latch (10_state.md R44). -/
def State.faultCode (s : State) : BitVec 3 :=
  match s.fault.cause with
  | none => 0#3
  | some .stackUnderflow => 1#3
  | some .fetchOutOfRange => 2#3
  | some .dataOutOfRange => 3#3
  | some .stackOverflow => 4#3

end Sys2Proof.Machine
end

