-- ==== Sys2Proof/Safety.lean ====
section
/-! DEFINITION. The terms the claims use: the invariant of a model instance, what an instruction leaves unchanged, the ends of a run and
a safe run. -/

namespace Sys2Proof.Machine

/-- The latch holds what a fault of its code records (10_state.md R44, 60_exceptions.md R200). -/
abbrev FaultLatch.wf (f : FaultLatch) : Prop :=
  match f.cause with
  | none => f = FaultLatch.clear
  | some .stackUnderflow => f.addr = 0#16
  | some .stackOverflow => f.addr = 0#16
  | some .fetchOutOfRange => f.opcode = 0#16 ∧ 0x1000 ≤ f.addr.toNat
  | some .dataOutOfRange => 0x1000 ≤ f.addr.toNat

/-- The stack is within a finite `STACK_DEPTH` (10_state.md R29). -/
abbrev State.stackFits (s : State) : Prop := ∀ depth ∈ s.cfg.stackDepth, s.stack.length ≤ depth

/-- The invariant: memory in its canonical form; I at most 0xFFF (10_state.md R31) under its condition; `pc` at most 0x10FE (R27); every
return address at most 0x1000 (the address after a call at 0xFFE, 40_control_flow.md R92); the stack within its depth; the latch as
R44 says. Only COPY_STATE can bring in a state without it (92_eei_decisions.md D37). -/
structure State.Inv (s : State) : Prop where
  mem_wf : s.mem.wf
  cfg_wf : s.cfg.wf
  index_le : s.cfg.indexBounded → s.index.toNat ≤ 0x0FFF
  pc_le : s.pc.toNat ≤ 0x10FE
  returns_le : ∀ a ∈ s.stack, a.toNat ≤ 0x1000
  stack_fits : s.stackFits
  latch_wf : s.fault.wf

/-- Every byte of memory reads as before. -/
def SameMem (s t : State) : Prop := ∀ a, t.mem.read a = s.mem.read a

/-- Every byte of memory outside the `n` bytes from `base` reads as before. -/
def SameMemOutside (base n : Nat) (s t : State) : Prop :=
  ∀ a, ¬(base ≤ a ∧ a < base + n) → t.mem.read a = s.mem.read a

/-- Every register but those listed is as before. -/
def SameRegsBut (xs : List Nibble) (s t : State) : Prop := ∀ z, z ∉ xs → t.getV z = s.getV z

/-- The timers are as before. -/
def SameTimers (s t : State) : Prop := t.dt = s.dt ∧ t.st = s.st

/-- Every cell of the display is as before. -/
def SameDisplay (s t : State) : Prop := t.display = s.display

/-- What no instruction that completes changes: the keyboard, the quirks bit, the latch, the diagnostic channel, and the model's own
fields (10_state.md R34, R35, R42 to R44). -/
def SameControl (s t : State) : Prop :=
  t.keys = s.keys ∧ t.quirks = s.quirks ∧ t.fault = s.fault ∧ t.diag = s.diag ∧ t.cfg = s.cfg ∧ t.rnd = s.rnd ∧ t.draws = s.draws

/-- Everything but the general registers and `pc` is as before. -/
def SameButRegs (s t : State) : Prop :=
  t.index = s.index ∧ t.stack = s.stack ∧ SameTimers s t ∧ SameMem s t ∧ SameDisplay s t ∧ SameControl s t

/-- Everything but `pc` and the call stack is as before. -/
def SameButPcStack (s t : State) : Prop :=
  SameRegsBut [] s t ∧ t.index = s.index ∧ SameTimers s t ∧ SameMem s t ∧ SameDisplay s t ∧ SameControl s t

/-- Only the latch has changed: what a step that faults leaves (60_exceptions.md R204). -/
def OnlyLatch (s t : State) (f : FaultLatch) : Prop := t = { s with fault := f }

/-- The word `w` is an opcode of the instruction `i` (30_encoding.md R75). -/
def EncodedAs (i : Instr) (w : Nat) : Prop := decode (BitVec.ofNat 16 w) = .ok i

/-- The word `w` is no opcode (30_encoding.md R77, R79). -/
def Unrecognised (w : Nat) : Prop := decode (BitVec.ofNat 16 w) = .error (.unrecognized (BitVec.ofNat 16 w))

/-- The mask and the match of every row of spec/opcode_table.json, in its order. -/
def opcodeRows : List (Word × Word) :=
  [(0xFFFF#16, 0x00E0#16), (0xFFFF#16, 0x00EE#16), (0xF000#16, 0x1000#16), (0xF000#16, 0x2000#16),
   (0xF000#16, 0x3000#16), (0xF000#16, 0x4000#16), (0xF00F#16, 0x5000#16), (0xF000#16, 0x6000#16),
   (0xF000#16, 0x7000#16), (0xF00F#16, 0x8000#16), (0xF00F#16, 0x8001#16), (0xF00F#16, 0x8002#16),
   (0xF00F#16, 0x8003#16), (0xF00F#16, 0x8004#16), (0xF00F#16, 0x8005#16), (0xF00F#16, 0x8006#16),
   (0xF00F#16, 0x8007#16), (0xF00F#16, 0x800E#16), (0xF00F#16, 0x9000#16), (0xF000#16, 0xA000#16),
   (0xF000#16, 0xB000#16), (0xF000#16, 0xC000#16), (0xF000#16, 0xD000#16), (0xF0FF#16, 0xE09E#16),
   (0xF0FF#16, 0xE0A1#16), (0xF0FF#16, 0xF007#16), (0xF0FF#16, 0xF00A#16), (0xF0FF#16, 0xF015#16),
   (0xF0FF#16, 0xF018#16), (0xF0FF#16, 0xF01E#16), (0xF0FF#16, 0xF029#16), (0xF0FF#16, 0xF033#16),
   (0xF0FF#16, 0xF055#16), (0xF0FF#16, 0xF065#16)]

/-- The register Vz after a result for Vx and a flag for VF, as 10_state.md R24 words it: when X = F and a flag is written, VF ends with
the flag under FLAG_LAST and with the result under RESULT_LAST. -/
def afterWrites (s : State) (x z : Nibble) (result : Byte) (flag : Option Byte) : Byte :=
  if z = 0xF#4 ∧ x = 0xF#4 then
    match flag with
    | none => result
    | some f => if s.cfg.vfWriteOrder = .flagLast then f else result
  else if z = x then result
  else if z = 0xF#4 then flag.getD (s.getV z)
  else s.getV z

/-- The value of `pc` after an instruction that does not fault, by the table of 10_state.md R27. -/
def pcAfter (s : State) : Instr → Word
  | .jp nnn => BitVec.ofNat 16 nnn.toNat
  | .call nnn => BitVec.ofNat 16 nnn.toNat
  | .ret => s.stack.getLastD 0#16
  | .jpV0 nnn =>
      BitVec.ofNat 16 (nnn.toNat + (if s.quirks then s.getV (nnn.extractLsb' 8 4) else s.getV 0x0#4).toNat)
  | .seByte x nn => if s.getV x = nn then s.pc + 4#16 else s.pc + 2#16
  | .sneByte x nn => if s.getV x ≠ nn then s.pc + 4#16 else s.pc + 2#16
  | .seReg x y => if s.getV x = s.getV y then s.pc + 4#16 else s.pc + 2#16
  | .sneReg x y => if s.getV x ≠ s.getV y then s.pc + 4#16 else s.pc + 2#16
  | .skp x => if keyDown s.cfg.keyTestMode s.keys ((s.getV x).toNat % 16) then s.pc + 4#16 else s.pc + 2#16
  | .sknp x => if keyDown s.cfg.keyTestMode s.keys ((s.getV x).toNat % 16) then s.pc + 2#16 else s.pc + 4#16
  | .ldVxK _ => if s.keys = 0x0000#16 then s.pc else s.pc + 2#16
  | _ => s.pc + 2#16

/-- VF may be written: the paths of 10_state.md R38, and the explicit operand X = F. -/
def mayWriteVf (s : State) : Instr → Prop
  | .addReg x y => (s.getV x).toNat + (s.getV y).toNat > 255 ∨ x = 0xF#4
  | .sub _ _ | .shr _ _ | .subn _ _ | .shl _ _ | .drw _ _ _ => True
  | .addI x => s.index.toNat + (s.getV x).toNat > 0xFFF
  | .ldByte x _ | .addByte x _ | .ldReg x _ | .orReg x _ | .andReg x _ | .xorReg x _ | .rnd x _ | .ldVxDt x | .ldVxK x
  | .ldRegs x => x = 0xF#4
  | _ => False

/-- The instructions of a list executed one after the other, each on the state the one before left. -/
def execAll : List Instr → State → Host.Outcome State Fault Refusal
  | [], s => .next s
  | i :: is, s =>
      match exec i s with
      | .next t => execAll is t
      | .fault r => .fault r
      | .refused r => .refused r

/-- The state after `FX55`'s or a host's stores, asked to fetch at `p` (20_memory.md R63). -/
def State.fetchAt (s : State) (p : Word) : Except FaultInfo Word := ({ s with pc := p } : State).fetch

/-- Everything but `pc`, the latch, `diag` and the model's own `rnd` and `draws` is as before: what a STEP that faults or warns leaves
(60_exceptions.md R204, 30_encoding.md R79). -/
def SameArchitecture (s t : State) : Prop :=
  SameRegsBut [] s t ∧ t.index = s.index ∧ t.stack = s.stack ∧ SameTimers s t ∧ SameMem s t ∧ SameDisplay s t ∧
    t.keys = s.keys ∧ t.quirks = s.quirks ∧ t.cfg = s.cfg

/-- Fault end of a run (70_reset_and_hazards.md R247). -/
def State.faultEnd (s : State) : Prop := s.fault.cause ≠ none

/-- Self-loop end of a run: the instruction at `pc` is 1NNN with `NNN = pc`, and `pc <= 0x0FFE` (70_reset_and_hazards.md R247). -/
def State.selfLoopEnd (s : State) : Prop :=
  s.pc.toNat ≤ 0x0FFE ∧ ∃ nnn : Addr12, nnn.toNat = s.pc.toNat ∧ s.fetch = .ok (encode (.jp nnn))

/-- A run of `k` STEPs that ends with no fault latched (70_reset_and_hazards.md R247: a fault end is never a successful one). -/
def SafeRun (k : Nat) (s : State) : Prop := ∃ t, Sys2Proof.core.run k s = .next t ∧ t.fault.cause = none

end Sys2Proof.Machine
end

