-- ==== Sys2Proof/Certificates/Slice0/Obligations.lean ====
section
/-! DEFINITION. The statements for the provers, from the spec's numbered rules. Each docstring names the rule or the sections its
statement formalises. -/

open Sys2Proof Sys2Proof.Machine

/-! ### Reset -/

/-- 70_reset_and_hazards.md R240, R241, 10_state.md R45: after the command RESET, whatever the state before, every piece of state has
its reset value, for every value of the parameters, which stay. -/
def Obligations.ResetGivesEveryStatedValue : Prop :=
  ∀ s : State, ∃ t, perform .reset s = .next t ∧
    (∀ a, t.mem.read a =
      if h : s.cfg.fontBase ≤ a ∧ a < s.cfg.fontBase + 80 then s.cfg.fontTable[a - s.cfg.fontBase]'(by omega) else 0x00#8) ∧
    (∀ x y, x < 64 → y < 32 → t.display.cell x y = false) ∧
    t.pc = 0x0200#16 ∧ t.index = 0x0000#16 ∧ t.stack = [] ∧ t.dt = 0x00#8 ∧ t.st = 0x00#8 ∧ (∀ z, t.getV z = 0x00#8) ∧
    t.keys = 0x0000#16 ∧ t.quirks = false ∧ t.faultCode = 0#3 ∧ t.fault.pc = 0#16 ∧ t.fault.opcode = 0#16 ∧
    t.fault.addr = 0#16 ∧ t.diag = [] ∧ t.cfg = s.cfg

/-- 10_state.md R45 and 20_memory.md R54 at the defaults of 00_scope.md R6: the machine's reset state carries the default parameters
(log entry 1), with the first and the last glyph of the default FONT_TABLE (93_implementation_defined.md G1) at 0x050 and 0x09B, and
0x00 around them. -/
def Obligations.ResetStateAtTheDefaults : Prop :=
  State.reset.cfg.fontBase = 0x050 ∧ State.reset.cfg.fontGlyphStride = 1 ∧ State.reset.cfg.stackDepth = none ∧
    State.reset.cfg.borrowFlagMode = .intended ∧ State.reset.cfg.vfWriteOrder = .flagLast ∧
    State.reset.cfg.keyTestMode = .fixed ∧
  State.reset.pc = 0x0200#16 ∧ State.reset.index = 0x0000#16 ∧ State.reset.stack = [] ∧ State.reset.quirks = false ∧
    State.reset.faultCode = 0#3 ∧
    (List.range 5).map (fun k => State.reset.mem.read (0x050 + k)) = [0xF0#8, 0x90#8, 0x90#8, 0x90#8, 0xF0#8] ∧
    (List.range 5).map (fun k => State.reset.mem.read (0x09B + k)) = [0xF0#8, 0x80#8, 0xF0#8, 0x80#8, 0x80#8] ∧
    State.reset.mem.read 0x04F = 0x00#8 ∧ State.reset.mem.read 0x0A0 = 0x00#8 ∧ State.reset.mem.read 0x200 = 0x00#8

/-- The invariant holds after reset: at the defaults, and for every well-formed value of the parameters. -/
def Obligations.ResetMeetsTheInvariant : Prop :=
  State.reset.Inv ∧ ∀ c : Config, c.wf → (State.resetWith c).Inv

/-- Every step keeps the invariant: canonical memory, I at most 0xFFF (10_state.md R31), `pc` at most 0x10FE (R27), return addresses at
most 0x1000, the stack within its depth (R29), the latch as R44 says. -/
def Obligations.StepKeepsTheInvariant : Prop :=
  ∀ s t : State, s.Inv → step s = .next t → t.Inv

/-- Every host command keeps the invariant, COPY_STATE from a source of the same instance that has it (10_state.md R31,
92_eei_decisions.md D37). -/
def Obligations.CommandsKeepTheInvariant : Prop :=
  ∀ (c : Command) (s t : State), s.Inv → (∀ source, c = .copyState source → source.Inv ∧ source.cfg = s.cfg) →
    perform c s = .next t → t.Inv

/-! ### The step -/

/-- 30_encoding.md R70: a STEP of a block that is not halted, at a `pc` whose two bytes decode, is `exec` of that instruction, on the
state with the STEP's random byte supplied: the next free byte for `step`, any byte for the command STEP. -/
def Obligations.StepRunsTheDecodedInstruction : Prop :=
  ∀ (s : State) (i : Instr), s.fault.cause = none → s.pc.toNat + 1 < 4096 → WellFormed i →
    decode (joinBytes (s.mem.read s.pc.toNat) (s.mem.read (s.pc.toNat + 1))) = .ok i →
    step s = exec i (s.supplyRnd (Config.randomByte s.draws)) ∧ ∀ r, perform (.step r) s = exec i (s.supplyRnd r)

/-- 30_encoding.md R79: executing an unrecognised word changes no architectural state, advances `pc` and appends one record. -/
def Obligations.UnrecognisedWordOnlyWarns : Prop :=
  ∀ (r : Byte) (s : State) (w : Word), s.fault.cause = none → s.pc.toNat + 1 < 4096 →
    joinBytes (s.mem.read s.pc.toNat) (s.mem.read (s.pc.toNat + 1)) = w → (∀ i, decode w ≠ .ok i) →
    ∃ t, stepWith r s = .next t ∧ SameArchitecture s t ∧ t.pc = s.pc + 2#16 ∧
      t.diag = s.diag ++ [{ opcode := w, addr := s.pc }] ∧ t.fault = s.fault

/-- 20_memory.md R56, 60_exceptions.md R202: a fetch with `pc >= 4095` latches FETCH_OUT_OF_RANGE with opcode 0 and the lowest address
out of range, and nothing else changes. -/
def Obligations.FetchOutOfRangeIsLatched : Prop :=
  ∀ (r : Byte) (s : State), s.fault.cause = none → 4095 ≤ s.pc.toNat →
    ∃ t, stepWith r s = .next t ∧ SameArchitecture s t ∧ t.pc = s.pc ∧ t.diag = s.diag ∧ t.faultCode = 2#3 ∧
      t.fault.pc = s.pc ∧ t.fault.opcode = 0x0000#16 ∧ t.fault.addr.toNat = max s.pc.toNat 4096

/-- 60_exceptions.md R205: while a fault is latched a STEP has no effect, every other command but RESET does what it does with no fault
latched and leaves the latch, and RESET clears it. -/
def Obligations.HaltedUntilReset : Prop :=
  ∀ s : State, s.fault.cause ≠ none →
    step s = .next s ∧ (∀ r, perform (.step r) s = .next s) ∧
      (∀ c t, c ≠ .reset → perform c s = .next t → t.fault = s.fault) ∧
      (∀ c t, c ≠ .reset → (∀ r, c ≠ .step r) → perform c { s with fault := FaultLatch.clear } = .next t →
        perform c s = .next { t with fault := s.fault }) ∧
      ∃ t, perform .reset s = .next t ∧ t.fault.cause = none

/-- No run of STEPs stops the model, from any state: a fault is latched, a halted step is a step, and an unrecognised word warns
(60_exceptions.md R204, R205, R207). -/
def Obligations.EveryRunOfStepsContinues : Prop :=
  ∀ (k : Nat) (s : State), ∃ t, Sys2Proof.core.run k s = .next t

/-- 60_exceptions.md R204: a step that faults changes nothing but the latch, which records `pc0` and the opcode fetched (0 for a fetch
fault, 10_state.md R44). -/
def Obligations.FaultingStepIsPrecise : Prop :=
  ∀ (r : Byte) (s t : State), stepWith r s = .next t → s.fault.cause = none → t.fault.cause ≠ none →
    SameArchitecture s t ∧ t.pc = s.pc ∧ t.diag = s.diag ∧ t.fault.pc = s.pc ∧
      t.fault.opcode = (match s.fetch with
        | .ok w => w
        | .error _ => 0x0000#16)

/-- 60_exceptions.md R200, R208: which instruction raises which fault, when, and with which address. -/
def Obligations.FaultsComeOnlyFromTheirInstructions : Prop :=
  ∀ (i : Instr) (s t : State) (c : Fault), exec i s = .next t → s.fault.cause = none → t.fault.cause = some c →
    (c = .stackUnderflow ∧ i = .ret ∧ s.stack = [] ∧ t.fault.addr = 0#16) ∨
    (c = .stackOverflow ∧ (∃ nnn, i = .call nnn) ∧ (∃ d, s.cfg.stackDepth = some d ∧ d ≤ s.stack.length) ∧
      t.fault.addr = 0#16) ∨
    (c = .dataOutOfRange ∧ t.fault.addr.toNat = max s.index.toNat 4096 ∧
      ((∃ x y n, i = .drw x y n ∧ 0 < n.toNat ∧ 4096 < s.index.toNat + n.toNat) ∨
       (∃ x, i = .ldB x ∧ 4096 < s.index.toNat + 3) ∨
       (∃ x, (i = .stRegs x ∨ i = .ldRegs x) ∧ 4096 < s.index.toNat + x.toNat + 1)))

/-! ### Encoding -/

/-- Every well-formed instruction decodes from its own opcode, at every operand (30_encoding.md R73, R75). -/
def Obligations.DecodeOfEncodeIsTheInstruction : Prop :=
  ∀ i : Instr, WellFormed i → decode (encode i) = .ok i

/-- A word that decodes is the opcode of the instruction it decodes to: no bit of it is ignored (30_encoding.md R75). -/
def Obligations.EncodeOfDecodeIsTheWord : Prop :=
  ∀ (w : Word) (i : Instr), decode w = .ok i → encode i = w

/-- 30_encoding.md R75: a word is recognised exactly when it matches a row of the opcode table, no two rows overlap, and every other
word is rejected as itself. -/
def Obligations.RecognisedExactlyByTheTable : Prop :=
  (∀ w : Word, (∃ i, decode w = .ok i) ↔ ∃ r ∈ opcodeRows, w &&& r.1 = r.2) ∧
  (∀ w : Word, ∀ r ∈ opcodeRows, ∀ r' ∈ opcodeRows, w &&& r.1 = r.2 → w &&& r'.1 = r'.2 → r = r') ∧
  (∀ w : Word, (∀ i, decode w ≠ .ok i) → decode w = .error (.unrecognized w))

/-- Words of every family, written out from the encodings and examples of the rules, decode to their instructions; words with a wrong
fixed nibble or byte do not (30_encoding.md R75, R77). -/
def Obligations.WordsOfTheSpecDecode : Prop :=
  decode 0x00E0#16 = .ok .cls ∧ decode 0x1234#16 = .ok (.jp 0x234#12) ∧ decode 0x3310#16 = .ok (.seByte 0x3#4 0x10#8) ∧
    decode 0x8124#16 = .ok (.addReg 0x1#4 0x2#4) ∧ decode 0xF51E#16 = .ok (.addI 0x5#4) ∧
    decode 0xD015#16 = .ok (.drw 0x0#4 0x1#4 0x5#4) ∧ decode 0xE19E#16 = .ok (.skp 0x1#4) ∧
    decode 0xB2F0#16 = .ok (.jpV0 0x2F0#12) ∧ decode 0x5AB1#16 = .error (.unrecognized 0x5AB1#16) ∧
    decode 0x00E1#16 = .error (.unrecognized 0x00E1#16) ∧ decode 0x0123#16 = .error (.unrecognized 0x0123#16)

/-! ### Rules of the whole machine -/

/-- The only instructions that write memory are FX33 and FX55 (90_conflicts.md C7). -/
def Obligations.OnlyBcdAndBlockStoreWriteMemory : Prop :=
  ∀ (i : Instr) (s t : State), exec i s = .next t → (∃ a, t.mem.read a ≠ s.mem.read a) →
    ∃ x, i = .ldB x ∨ i = .stRegs x

/-- 10_state.md R30: of the instructions only 2NNN and 00EE touch the call stack, and no instruction reads it but them. -/
def Obligations.OnlyCallAndReturnTouchTheStack : Prop :=
  ∀ (i : Instr) (s t : State), i ≠ .ret → (∀ nnn, i ≠ .call nnn) → exec i s = .next t →
    t.stack = s.stack ∧ ∀ l, exec i { s with stack := l } = .next { t with stack := l }

/-- The writers of the display, the index register and the timers (10_state.md R31 to R33, R40). -/
def Obligations.WritersOfDisplayIndexAndTimers : Prop :=
  ∀ (i : Instr) (s t : State), exec i s = .next t →
    (t.display ≠ s.display → i = .cls ∨ ∃ x y n, i = .drw x y n) ∧
    (t.index ≠ s.index → (∃ nnn, i = .ldI nnn) ∨ (∃ x, i = .addI x) ∨ ∃ x, i = .ldF x) ∧
    (t.dt ≠ s.dt → ∃ x, i = .ldDtVx x) ∧ (t.st ≠ s.st → ∃ x, i = .ldStVx x)

/-- No instruction writes the keyboard, the quirks bit or a parameter, and none but an unrecognised word adds a record to `diag`
(10_state.md R34, R35, R42, R43); no STEP does the first three. -/
def Obligations.NoInstructionWritesKeysQuirksOrParameters : Prop :=
  (∀ (i : Instr) (s t : State), exec i s = .next t →
    t.keys = s.keys ∧ t.quirks = s.quirks ∧ t.cfg = s.cfg ∧ t.diag = s.diag) ∧
  ∀ s t : State, step s = .next t → t.keys = s.keys ∧ t.quirks = s.quirks ∧ t.cfg = s.cfg

/-- 10_state.md R38: VF is written only on the paths of the rule's table or through the explicit operand X = F. -/
def Obligations.FlagRegisterWrittenOnlyAsListed : Prop :=
  ∀ (i : Instr) (s t : State), exec i s = .next t → t.getV 0xF#4 ≠ s.getV 0xF#4 → mayWriteVf s i

/-- 10_state.md R27: the value of `pc` after each instruction and after an unrecognised word, and `pc0` after any step that faults. -/
def Obligations.ProgramCounterAfterEveryStep : Prop :=
  (∀ (i : Instr) (s t : State), exec i s = .next t → s.fault.cause = none →
    (t.fault.cause = none → t.pc = pcAfter s i) ∧ (t.fault.cause ≠ none → t.pc = s.pc)) ∧
  ∀ (r : Byte) (s t : State), stepWith r s = .next t → s.fault.cause = none →
    (t.fault.cause ≠ none → t.pc = s.pc) ∧
    (t.fault.cause = none → ∃ w, s.fetch = .ok w ∧ (∀ i, decode w = .ok i → t.pc = pcAfter s i) ∧
      ((∀ i, decode w ≠ .ok i) → t.pc = s.pc + 2#16))

/-! ### Control transfer -/

/-- 40_control_flow.md R90: 00EE pops the stack into `pc`, or faults with STACK_UNDERFLOW and no other effect when it is empty. -/
def Obligations.ReturnPopsTheStack : Prop :=
  EncodedAs .ret 0x00EE ∧
  (∀ (s : State) (rest : List Word) (a : Word), s.stack = rest ++ [a] →
    ∃ t, exec .ret s = .next t ∧ t.pc = a ∧ t.stack = rest ∧ SameButPcStack s t) ∧
  (∀ s : State, s.fault.cause = none → s.stack = [] →
    ∃ t, exec .ret s = .next t ∧
      OnlyLatch s t { cause := some .stackUnderflow, pc := s.pc, opcode := 0x00EE#16, addr := 0#16 })

/-- 40_control_flow.md R91: 1NNN sets `pc` to NNN and changes nothing else. -/
def Obligations.JumpSetsThePc : Prop :=
  ∀ (nnn : Addr12) (s : State), EncodedAs (.jp nnn) (0x1000 + nnn.toNat) ∧
    ∃ t, exec (.jp nnn) s = .next t ∧ t.pc.toNat = nnn.toNat ∧ t.stack = s.stack ∧ SameButPcStack s t

/-- 40_control_flow.md R92, 60_exceptions.md R206: 2NNN pushes the address after the call and jumps, or faults with STACK_OVERFLOW and no
other effect when STACK_DEPTH is finite and reached. -/
def Obligations.CallPushesTheReturnAddress : Prop :=
  ∀ (nnn : Addr12) (s : State), EncodedAs (.call nnn) (0x2000 + nnn.toNat) ∧
    ((∀ d, s.cfg.stackDepth = some d → s.stack.length < d) →
      ∃ t, exec (.call nnn) s = .next t ∧ t.pc.toNat = nnn.toNat ∧ t.stack = s.stack ++ [s.pc + 2#16] ∧ SameButPcStack s t) ∧
    (∀ d, s.cfg.stackDepth = some d → d ≤ s.stack.length → s.fault.cause = none →
      ∃ t, exec (.call nnn) s = .next t ∧
        OnlyLatch s t { cause := some .stackOverflow, pc := s.pc, opcode := BitVec.ofNat 16 (0x2000 + nnn.toNat),
                        addr := 0#16 })

/-- 40_control_flow.md R93, R94: 3XNN and 4XNN skip the next two bytes when VX equals, or does not equal, NN. -/
def Obligations.SkipsOnAnImmediate : Prop :=
  ∀ (x : Nibble) (nn : Byte) (s : State),
    EncodedAs (.seByte x nn) (0x3000 + 0x100 * x.toNat + nn.toNat) ∧
    EncodedAs (.sneByte x nn) (0x4000 + 0x100 * x.toNat + nn.toNat) ∧
    (∃ t, exec (.seByte x nn) s = .next t ∧ t.pc = s.pc + 2#16 + (if s.getV x = nn then 2#16 else 0#16) ∧
      SameRegsBut [] s t ∧ SameButRegs s t) ∧
    (∃ t, exec (.sneByte x nn) s = .next t ∧ t.pc = s.pc + 2#16 + (if s.getV x = nn then 0#16 else 2#16) ∧
      SameRegsBut [] s t ∧ SameButRegs s t)

/-- 40_control_flow.md R95, R96: 5XY0 and 9XY0 skip the next two bytes when VX equals, or does not equal, VY; 5XYN and 9XYN with N
other than 0 are unrecognised. -/
def Obligations.SkipsOnTwoRegisters : Prop :=
  ∀ (x y : Nibble) (s : State),
    EncodedAs (.seReg x y) (0x5000 + 0x100 * x.toNat + 0x10 * y.toNat) ∧
    EncodedAs (.sneReg x y) (0x9000 + 0x100 * x.toNat + 0x10 * y.toNat) ∧
    (∀ n : Nibble, n ≠ 0x0#4 → Unrecognised (0x5000 + 0x100 * x.toNat + 0x10 * y.toNat + n.toNat) ∧
      Unrecognised (0x9000 + 0x100 * x.toNat + 0x10 * y.toNat + n.toNat)) ∧
    (∃ t, exec (.seReg x y) s = .next t ∧ t.pc = s.pc + 2#16 + (if s.getV x = s.getV y then 2#16 else 0#16) ∧
      SameRegsBut [] s t ∧ SameButRegs s t) ∧
    (∃ t, exec (.sneReg x y) s = .next t ∧ t.pc = s.pc + 2#16 + (if s.getV x = s.getV y then 0#16 else 2#16) ∧
      SameRegsBut [] s t ∧ SameButRegs s t)

/-- 40_control_flow.md R97: BNNN jumps to the exact sum of NNN and V0, or in quirks mode of NNN and the register NNN[11:8]. -/
def Obligations.JumpWithOffsetAddsTheRegister : Prop :=
  ∀ (nnn : Addr12) (s : State), EncodedAs (.jpV0 nnn) (0xB000 + nnn.toNat) ∧
    ∃ t, exec (.jpV0 nnn) s = .next t ∧
      t.pc.toNat =
        nnn.toNat + (if s.quirks then s.getV (BitVec.ofNat 4 (nnn.toNat / 256)) else s.getV 0x0#4).toNat ∧
      t.stack = s.stack ∧ SameButPcStack s t

/-- 95_test_vectors.md W4: on an unbounded stack, any calls followed by as many returns leave the stack as it was and `pc` after the
first call. -/
def Obligations.NestedCallsAndReturnsBalance : Prop :=
  ∀ (target : Addr12) (targets : List Addr12) (s : State), s.cfg.stackDepth = none →
    ∃ t, execAll (((target :: targets).map Instr.call) ++ List.replicate (targets.length + 1) Instr.ret) s = .next t ∧
      t.pc = s.pc + 2#16 ∧ t.stack = s.stack ∧ SameButPcStack s t

/-- 95_test_vectors.md W4 with a finite STACK_DEPTH (10_state.md R29, 40_control_flow.md R92): where the stack has room for all the calls,
they and as many returns leave the stack as it was and `pc` after the first call. -/
def Obligations.NestedCallsWithinAFiniteDepthBalance : Prop :=
  ∀ (target : Addr12) (targets : List Addr12) (d : Nat) (s : State), s.cfg.stackDepth = some d →
    s.stack.length + targets.length + 1 ≤ d →
    ∃ t, execAll (((target :: targets).map Instr.call) ++ List.replicate (targets.length + 1) Instr.ret) s = .next t ∧
      t.pc = s.pc + 2#16 ∧ t.stack = s.stack ∧ SameButPcStack s t

/-! ### ALU -/

/-- 41_alu.md R110, R111: 6XNN loads NN, and 7XNN adds NN modulo 256 with no flag. -/
def Obligations.LoadAndAddImmediate : Prop :=
  ∀ (x : Nibble) (nn : Byte) (s : State),
    EncodedAs (.ldByte x nn) (0x6000 + 0x100 * x.toNat + nn.toNat) ∧
    EncodedAs (.addByte x nn) (0x7000 + 0x100 * x.toNat + nn.toNat) ∧
    (∃ t, exec (.ldByte x nn) s = .next t ∧ t.getV x = nn ∧ SameRegsBut [x] s t ∧ t.pc = s.pc + 2#16 ∧ SameButRegs s t) ∧
    (∃ t, exec (.addByte x nn) s = .next t ∧ (t.getV x).toNat = ((s.getV x).toNat + nn.toNat) % 256 ∧
      SameRegsBut [x] s t ∧ t.pc = s.pc + 2#16 ∧ SameButRegs s t)

/-- 41_alu.md R112 to R115: copy, OR, AND and XOR of VX and VY into VX, with no flag. That 8XY1, 8XY2 and 8XY3 leave VF unchanged unless
X = F is the spec's own inference (R113: "[derived: from the §4.1 row, which names no flag]"). -/
def Obligations.CopyAndLogicOfTwoRegisters : Prop :=
  ∀ (x y : Nibble) (s : State),
    EncodedAs (.ldReg x y) (0x8000 + 0x100 * x.toNat + 0x10 * y.toNat) ∧
    EncodedAs (.orReg x y) (0x8001 + 0x100 * x.toNat + 0x10 * y.toNat) ∧
    EncodedAs (.andReg x y) (0x8002 + 0x100 * x.toNat + 0x10 * y.toNat) ∧
    EncodedAs (.xorReg x y) (0x8003 + 0x100 * x.toNat + 0x10 * y.toNat) ∧
    (∃ t, exec (.ldReg x y) s = .next t ∧ t.getV x = s.getV y ∧ SameRegsBut [x] s t ∧ t.pc = s.pc + 2#16 ∧
      SameButRegs s t) ∧
    (∃ t, exec (.orReg x y) s = .next t ∧ t.getV x = s.getV x ||| s.getV y ∧ SameRegsBut [x] s t ∧ t.pc = s.pc + 2#16 ∧
      SameButRegs s t) ∧
    (∃ t, exec (.andReg x y) s = .next t ∧ t.getV x = s.getV x &&& s.getV y ∧ SameRegsBut [x] s t ∧ t.pc = s.pc + 2#16 ∧
      SameButRegs s t) ∧
    (∃ t, exec (.xorReg x y) s = .next t ∧ t.getV x = s.getV x ^^^ s.getV y ∧ SameRegsBut [x] s t ∧ t.pc = s.pc + 2#16 ∧
      SameButRegs s t)

/-- 41_alu.md R116: 8XY4 adds modulo 256 and sets VF to 1 exactly when the sum exceeds 255, else leaves VF; with X = F by the write
order of 10_state.md R24. -/
def Obligations.AddRegisterSetsTheCarry : Prop :=
  ∀ (x y : Nibble) (s : State), EncodedAs (.addReg x y) (0x8004 + 0x100 * x.toNat + 0x10 * y.toNat) ∧
    ∃ t, exec (.addReg x y) s = .next t ∧
      (∀ z, t.getV z =
        afterWrites s x z (BitVec.ofNat 8 (((s.getV x).toNat + (s.getV y).toNat) % 256))
          (if (s.getV x).toNat + (s.getV y).toNat > 255 then some 0x01#8 else none)) ∧
      t.pc = s.pc + 2#16 ∧ SameButRegs s t

/-- 41_alu.md R117, R119, R122: 8XY5 and 8XY7 subtract modulo 256 and set VF by BORROW_FLAG_MODE; with X = F by the write order of
10_state.md R24. -/
def Obligations.SubtractionsSetTheBorrowFlag : Prop :=
  ∀ (x y : Nibble) (s : State),
    EncodedAs (.sub x y) (0x8005 + 0x100 * x.toNat + 0x10 * y.toNat) ∧
    EncodedAs (.subn x y) (0x8007 + 0x100 * x.toNat + 0x10 * y.toNat) ∧
    (∃ t, exec (.sub x y) s = .next t ∧
      (∀ z, t.getV z =
        afterWrites s x z (BitVec.ofNat 8 (((s.getV x).toNat + 256 - (s.getV y).toNat) % 256))
          (some (if s.cfg.borrowFlagMode = .reference ∨ (s.getV x).toNat ≥ (s.getV y).toNat then 0x01#8 else 0x00#8))) ∧
      t.pc = s.pc + 2#16 ∧ SameButRegs s t) ∧
    (∃ t, exec (.subn x y) s = .next t ∧
      (∀ z, t.getV z =
        afterWrites s x z (BitVec.ofNat 8 (((s.getV y).toNat + 256 - (s.getV x).toNat) % 256))
          (some (if s.cfg.borrowFlagMode = .reference ∨ (s.getV y).toNat ≥ (s.getV x).toNat then 0x01#8 else 0x00#8))) ∧
      t.pc = s.pc + 2#16 ∧ SameButRegs s t)

/-- 41_alu.md R118, R120: 8XY6 and 8XYE shift VY, or VX in quirks mode, by one into VX and put the bit shifted out in VF; with X = F by
the write order of 10_state.md R24. -/
def Obligations.ShiftsPutTheLostBitInTheFlag : Prop :=
  ∀ (x y : Nibble) (s : State),
    EncodedAs (.shr x y) (0x8006 + 0x100 * x.toNat + 0x10 * y.toNat) ∧
    EncodedAs (.shl x y) (0x800E + 0x100 * x.toNat + 0x10 * y.toNat) ∧
    ∀ src, src = (if s.quirks then s.getV x else s.getV y).toNat →
      (∃ t, exec (.shr x y) s = .next t ∧
        (∀ z, t.getV z = afterWrites s x z (BitVec.ofNat 8 (src / 2)) (some (BitVec.ofNat 8 (src % 2)))) ∧
        t.pc = s.pc + 2#16 ∧ SameButRegs s t) ∧
      (∃ t, exec (.shl x y) s = .next t ∧
        (∀ z, t.getV z = afterWrites s x z (BitVec.ofNat 8 (src * 2 % 256)) (some (BitVec.ofNat 8 (src / 128)))) ∧
        t.pc = s.pc + 2#16 ∧ SameButRegs s t)

/-- 10_state.md R24: with X = F, VF ends with the flag under FLAG_LAST and with the result under RESULT_LAST, and 8XY4 with no carry ends
with the result in both. -/
def Obligations.AliasedFlagFollowsTheWriteOrder : Prop :=
  ∀ (y : Nibble) (s : State), ∃ tAdd tSub tShr tSubn tShl,
    exec (.addReg 0xF#4 y) s = .next tAdd ∧ exec (.sub 0xF#4 y) s = .next tSub ∧ exec (.shr 0xF#4 y) s = .next tShr ∧
    exec (.subn 0xF#4 y) s = .next tSubn ∧ exec (.shl 0xF#4 y) s = .next tShl ∧
    Config.default.vfWriteOrder = .flagLast ∧
    ((s.getV 0xF#4).toNat + (s.getV y).toNat ≤ 255 → tAdd.getV 0xF#4 = s.getV 0xF#4 + s.getV y) ∧
    (s.cfg.vfWriteOrder = .flagLast →
      ((s.getV 0xF#4).toNat + (s.getV y).toNat > 255 → tAdd.getV 0xF#4 = 0x01#8) ∧
      tSub.getV 0xF#4 = flagByte (borrowFlag s.cfg.borrowFlagMode (s.getV 0xF#4) (s.getV y)) ∧
      tSubn.getV 0xF#4 = flagByte (borrowFlag s.cfg.borrowFlagMode (s.getV y) (s.getV 0xF#4)) ∧
      tShr.getV 0xF#4 = flagByte ((s.shiftSource 0xF#4 y).getLsbD 0) ∧
      tShl.getV 0xF#4 = flagByte ((s.shiftSource 0xF#4 y).getLsbD 7)) ∧
    (s.cfg.vfWriteOrder = .resultLast →
      tAdd.getV 0xF#4 = s.getV 0xF#4 + s.getV y ∧ tSub.getV 0xF#4 = s.getV 0xF#4 - s.getV y ∧
      tSubn.getV 0xF#4 = s.getV y - s.getV 0xF#4 ∧ tShr.getV 0xF#4 = s.shiftSource 0xF#4 y >>> 1 ∧
      tShl.getV 0xF#4 = s.shiftSource 0xF#4 y <<< 1)

/-- 41_alu.md R121: CXNN puts NN AND the STEP's random byte in VX, for every random byte; a STEP that runs it with the byte `r` uses
`r`. -/
def Obligations.RandomIsMaskedByTheImmediate : Prop :=
  ∀ (x : Nibble) (nn : Byte) (s : State), EncodedAs (.rnd x nn) (0xC000 + 0x100 * x.toNat + nn.toNat) ∧
    (∃ t, exec (.rnd x nn) s = .next t ∧ t.getV x = nn &&& s.rnd ∧ SameRegsBut [x] s t ∧ t.pc = s.pc + 2#16 ∧
      SameButRegs s t) ∧
    (∀ r, s.fault.cause = none → s.fetch = .ok (encode (.rnd x nn)) →
      ∃ t, perform (.step r) s = .next t ∧ t.getV x = nn &&& r ∧ SameRegsBut [x] s t ∧ t.pc = s.pc + 2#16)

/-! ### Index register and memory -/

/-- 42_index_memory.md R140: ANNN sets I to NNN. -/
def Obligations.LoadIndexImmediate : Prop :=
  ∀ (nnn : Addr12) (s : State), EncodedAs (.ldI nnn) (0xA000 + nnn.toNat) ∧
    ∃ t, exec (.ldI nnn) s = .next t ∧ t.index.toNat = nnn.toNat ∧ t.pc = s.pc + 2#16 ∧ SameRegsBut [] s t ∧
      t.stack = s.stack ∧ SameTimers s t ∧ SameMem s t ∧ SameDisplay s t ∧ SameControl s t

/-- 42_index_memory.md R141: FX1E adds VX to I; a sum above 0xFFF wraps modulo 0x1000 and sets VF to 1, else VF is unchanged. -/
def Obligations.AddToIndexWrapsAtTwelveBits : Prop :=
  ∀ (x : Nibble) (s : State), EncodedAs (.addI x) (0xF01E + 0x100 * x.toNat) ∧
    ∃ t, exec (.addI x) s = .next t ∧ t.pc = s.pc + 2#16 ∧ t.stack = s.stack ∧ SameTimers s t ∧ SameMem s t ∧
      SameDisplay s t ∧ SameControl s t ∧
      (s.index.toNat + (s.getV x).toNat > 0x0FFF →
        t.index.toNat = (s.index.toNat + (s.getV x).toNat) % 0x1000 ∧ t.getV 0xF#4 = 0x01#8 ∧ SameRegsBut [0xF#4] s t) ∧
      (s.index.toNat + (s.getV x).toNat ≤ 0x0FFF →
        t.index.toNat = s.index.toNat + (s.getV x).toNat ∧ SameRegsBut [] s t)

/-- 42_index_memory.md R142: FX29 sets I to FONT_BASE + VX * FONT_GLYPH_STRIDE, exact, VX not masked; where that needs more than 16 bits
the rule gives no value of I (log entry 4), and the rest still holds. -/
def Obligations.GlyphAddressIsBasePlusStrides : Prop :=
  ∀ (x : Nibble) (s : State), EncodedAs (.ldF x) (0xF029 + 0x100 * x.toNat) ∧
    ∃ t, exec (.ldF x) s = .next t ∧
      (s.cfg.fontBase + (s.getV x).toNat * s.cfg.fontGlyphStride ≤ 0xFFFF →
        t.index.toNat = s.cfg.fontBase + (s.getV x).toNat * s.cfg.fontGlyphStride) ∧
      t.pc = s.pc + 2#16 ∧ SameRegsBut [] s t ∧ t.stack = s.stack ∧ SameTimers s t ∧ SameMem s t ∧ SameDisplay s t ∧
      SameControl s t

/-- 42_index_memory.md R143: FX33 stores the decimal digits of VX at I, I + 1, I + 2 and changes nothing else, or faults with no byte
written when I + 2 is 4096 or more. -/
def Obligations.BcdStoresThreeDigits : Prop :=
  ∀ (x : Nibble) (s : State), EncodedAs (.ldB x) (0xF033 + 0x100 * x.toNat) ∧
    (s.index.toNat + 2 < 4096 →
      ∃ t, exec (.ldB x) s = .next t ∧
        (t.mem.read s.index.toNat).toNat = (s.getV x).toNat / 100 ∧
        (t.mem.read (s.index.toNat + 1)).toNat = (s.getV x).toNat / 10 % 10 ∧
        (t.mem.read (s.index.toNat + 2)).toNat = (s.getV x).toNat % 10 ∧
        SameMemOutside s.index.toNat 3 s t ∧ t.pc = s.pc + 2#16 ∧ SameRegsBut [] s t ∧ t.index = s.index ∧
        t.stack = s.stack ∧ SameTimers s t ∧ SameDisplay s t ∧ SameControl s t) ∧
    (4096 ≤ s.index.toNat + 2 → s.fault.cause = none →
      ∃ t, exec (.ldB x) s = .next t ∧
        OnlyLatch s t { cause := some .dataOutOfRange, pc := s.pc, opcode := BitVec.ofNat 16 (0xF033 + 0x100 * x.toNat),
                        addr := BitVec.ofNat 16 (max s.index.toNat 4096) })

/-- 42_index_memory.md R144: FX55 stores V0..VX at I, I + 1, ..., I + X and changes nothing else, I included, or faults with no byte
written when I + X is 4096 or more. -/
def Obligations.BlockStoreWritesTheRegisters : Prop :=
  ∀ (x : Nibble) (s : State), EncodedAs (.stRegs x) (0xF055 + 0x100 * x.toNat) ∧
    (s.index.toNat + x.toNat < 4096 →
      ∃ t, exec (.stRegs x) s = .next t ∧
        (∀ z : Nibble, z.toNat ≤ x.toNat → t.mem.read (s.index.toNat + z.toNat) = s.getV z) ∧
        SameMemOutside s.index.toNat (x.toNat + 1) s t ∧ t.pc = s.pc + 2#16 ∧ SameRegsBut [] s t ∧ t.index = s.index ∧
        t.stack = s.stack ∧ SameTimers s t ∧ SameDisplay s t ∧ SameControl s t) ∧
    (4096 ≤ s.index.toNat + x.toNat → s.fault.cause = none →
      ∃ t, exec (.stRegs x) s = .next t ∧
        OnlyLatch s t { cause := some .dataOutOfRange, pc := s.pc, opcode := BitVec.ofNat 16 (0xF055 + 0x100 * x.toNat),
                        addr := BitVec.ofNat 16 (max s.index.toNat 4096) })

/-- 42_index_memory.md R145: FX65 loads V0..VX from I, I + 1, ..., I + X and changes nothing else, memory and I included, or faults with
no register written when I + X is 4096 or more. -/
def Obligations.BlockLoadReadsTheRegisters : Prop :=
  ∀ (x : Nibble) (s : State), EncodedAs (.ldRegs x) (0xF065 + 0x100 * x.toNat) ∧
    (s.index.toNat + x.toNat < 4096 →
      ∃ t, exec (.ldRegs x) s = .next t ∧
        (∀ z : Nibble, t.getV z = if z.toNat ≤ x.toNat then s.mem.read (s.index.toNat + z.toNat) else s.getV z) ∧
        t.pc = s.pc + 2#16 ∧ SameButRegs s t) ∧
    (4096 ≤ s.index.toNat + x.toNat → s.fault.cause = none →
      ∃ t, exec (.ldRegs x) s = .next t ∧
        OnlyLatch s t { cause := some .dataOutOfRange, pc := s.pc, opcode := BitVec.ofNat 16 (0xF065 + 0x100 * x.toNat),
                        addr := BitVec.ofNat 16 (max s.index.toNat 4096) })

/-- 20_memory.md R57: each data instruction checks its whole range first, and with any address out of range it changes only the latch,
which takes the lowest such address. -/
def Obligations.DataRangeIsCheckedBeforeAnyAccess : Prop :=
  ∀ (i : Instr) (n : Nat) (s : State),
    ((∃ x y k, i = .drw x y k ∧ n = k.toNat) ∨ (∃ x, i = .ldB x ∧ n = 3) ∨
      (∃ x, (i = .stRegs x ∨ i = .ldRegs x) ∧ n = x.toNat + 1)) →
    (∃ k, k < n ∧ 4096 ≤ s.index.toNat + k) → s.fault.cause = none →
    ∃ t, exec i s = .next t ∧
      OnlyLatch s t { cause := some .dataOutOfRange, pc := s.pc, opcode := encode i, addr := t.fault.addr } ∧
      t.fault.addr.toNat = max s.index.toNat 4096

/-- The three digits that FX33 stores are decimal digits and rebuild VX (42_index_memory.md R143). -/
def Obligations.BcdDigitsRebuildTheValue : Prop :=
  ∀ (x : Nibble) (s t : State), s.index.toNat + 2 < 4096 → exec (.ldB x) s = .next t →
    100 * (t.mem.read s.index.toNat).toNat + 10 * (t.mem.read (s.index.toNat + 1)).toNat +
        (t.mem.read (s.index.toNat + 2)).toNat = (s.getV x).toNat ∧
    ∀ k, k < 3 → (t.mem.read (s.index.toNat + k)).toNat < 10

/-- FX55 and then FX65 with the same X and I give back the registers stored, whatever the registers hold in between
(42_index_memory.md R144, R145). -/
def Obligations.BlockStoreThenLoadRestores : Prop :=
  ∀ (x : Nibble) (s t u : State), s.index.toNat + x.toNat < 4096 → exec (.stRegs x) s = .next t → u.mem = t.mem →
    u.index = t.index → ∃ w, exec (.ldRegs x) u = .next w ∧
      ∀ z : Nibble, w.getV z = if z.toNat ≤ x.toNat then s.getV z else u.getV z

/-- 20_memory.md R60, R51, R65 and 42_index_memory.md R143, R144: a fetch in the state that FX55, FX33 or HOST_WRITE leaves reads, at every
address, the byte just stored there, and elsewhere the byte from before. 20_memory.md R63, which says this in words, is the spec's own
inference ("[derived: from rule R60 and the §4.1 step contract]"). -/
def Obligations.FetchSeesEarlierStores : Prop :=
  (∀ (x : Nibble) (s : State) (now : Nat → Byte), s.index.toNat + x.toNat < 4096 →
    (∀ a, now a = if s.index.toNat ≤ a ∧ a ≤ s.index.toNat + x.toNat then s.getV (BitVec.ofNat 4 (a - s.index.toNat))
      else s.mem.read a) →
    ∃ t, exec (.stRegs x) s = .next t ∧
      ∀ p : Word, p.toNat + 1 < 4096 → t.fetchAt p = .ok (joinBytes (now p.toNat) (now (p.toNat + 1)))) ∧
  (∀ (x : Nibble) (s : State) (now : Nat → Byte), s.index.toNat + 2 < 4096 →
    (∀ a, now a =
      if a = s.index.toNat then BitVec.ofNat 8 ((s.getV x).toNat / 100)
      else if a = s.index.toNat + 1 then BitVec.ofNat 8 ((s.getV x).toNat / 10 % 10)
      else if a = s.index.toNat + 2 then BitVec.ofNat 8 ((s.getV x).toNat % 10)
      else s.mem.read a) →
    ∃ t, exec (.ldB x) s = .next t ∧
      ∀ p : Word, p.toNat + 1 < 4096 → t.fetchAt p = .ok (joinBytes (now p.toNat) (now (p.toNat + 1)))) ∧
  (∀ (addr : Nat) (byte : Byte) (s : State) (now : Nat → Byte), addr < 4096 →
    (∀ a, now a = if a = addr then byte else s.mem.read a) →
    ∃ t, perform (.hostWrite addr byte) s = .next t ∧
      ∀ p : Word, p.toNat + 1 < 4096 → t.fetchAt p = .ok (joinBytes (now p.toNat) (now (p.toNat + 1))))

/-- Two memories in canonical form that read alike everywhere are equal data (the model's form of 20_memory.md R50; log entry 3). -/
def Obligations.CanonicalMemoryIsUnique : Prop :=
  ∀ m m' : Memory, m.wf → m'.wf → (∀ a, m.read a = m'.read a) → m = m'

/-! ### Display -/

/-- 43_display.md R160: 00E0 makes every cell false and changes nothing else, VF included. -/
def Obligations.ClearMakesEveryCellFalse : Prop :=
  EncodedAs .cls 0x00E0 ∧
  ∀ s : State, ∃ t, exec .cls s = .next t ∧ (∀ x y, x < 64 → y < 32 → t.display.cell x y = false) ∧ t.pc = s.pc + 2#16 ∧
    SameRegsBut [] s t ∧ t.index = s.index ∧ t.stack = s.stack ∧ SameTimers s t ∧ SameMem s t ∧ SameControl s t

/-- 43_display.md R161, R162, R163: DXYN XORs each sprite bit into the cell it lands on (bit 7 of byte r at (x0, y0 + r)), drops what
falls off, and sets VF to 1 exactly when a set bit landed on a lit cell; out of range it faults with the display and VF unchanged. -/
def Obligations.DrawXorsTheSpriteAndReportsCollision : Prop :=
  ∀ (x y n : Nibble) (s : State),
    EncodedAs (.drw x y n) (0xD000 + 0x100 * x.toNat + 0x10 * y.toNat + n.toNat) ∧
    (∀ (x0 y0 : Nat) (hit : Nat → Nat → Prop), x0 = (s.getV x).toNat % 64 → y0 = (s.getV y).toNat % 32 →
      (∀ cx cy, hit cx cy ↔ ∃ r c, r < n.toNat ∧ c < 8 ∧ cx = x0 + c ∧ cy = y0 + r ∧
        (s.mem.read (s.index.toNat + r)).getLsbD (7 - c) = true) →
      (n = 0x0#4 ∨ s.index.toNat + n.toNat ≤ 4096) →
      ∃ t, exec (.drw x y n) s = .next t ∧
        (∀ cx cy, cx < 64 → cy < 32 →
          (hit cx cy → t.display.cell cx cy = !(s.display.cell cx cy)) ∧
          (¬ hit cx cy → t.display.cell cx cy = s.display.cell cx cy)) ∧
        ((∃ cx cy, cx < 64 ∧ cy < 32 ∧ hit cx cy ∧ s.display.cell cx cy = true) → t.getV 0xF#4 = 0x01#8) ∧
        ((∀ cx cy, cx < 64 → cy < 32 → hit cx cy → s.display.cell cx cy = false) → t.getV 0xF#4 = 0x00#8) ∧
        SameRegsBut [0xF#4] s t ∧ t.pc = s.pc + 2#16 ∧ t.index = s.index ∧ t.stack = s.stack ∧ SameTimers s t ∧
        SameMem s t ∧ SameControl s t) ∧
    (n ≠ 0x0#4 → 4096 < s.index.toNat + n.toNat → s.fault.cause = none →
      ∃ t, exec (.drw x y n) s = .next t ∧
        OnlyLatch s t { cause := some .dataOutOfRange, pc := s.pc,
                        opcode := BitVec.ofNat 16 (0xD000 + 0x100 * x.toNat + 0x10 * y.toNat + n.toNat),
                        addr := BitVec.ofNat 16 (max s.index.toNat 4096) })

/-- The same sprite drawn twice at the same coordinates restores the display, and the second draw sets VF to 1 exactly when the first
lit a cell (43_display.md R161, R162 and the first two sentences of R164; log entry 7 says what its third sentence leaves out). -/
def Obligations.DrawingTwiceRestoresTheDisplay : Prop :=
  ∀ (x y n : Nibble) (s t u : State), (n = 0x0#4 ∨ s.index.toNat + n.toNat ≤ 4096) → exec (.drw x y n) s = .next t →
    u.mem = t.mem → u.index = t.index → u.display = t.display → u.getV x = s.getV x → u.getV y = s.getV y →
    ∃ w, exec (.drw x y n) u = .next w ∧ w.display = s.display ∧
      (w.getV 0xF#4 = 0x01#8 ↔ ∃ cx cy, cx < 64 ∧ cy < 32 ∧ s.display.cell cx cy = false ∧ t.display.cell cx cy = true) ∧
      (w.getV 0xF#4 = 0x01#8 ∨ w.getV 0xF#4 = 0x00#8)

/-! ### Keys and timers -/

/-- 44_keys_timers.md R180, R181, R182: EX9E and EXA1 skip when the key of VX's low four bits is down, or not down, by the key test of
KEY_TEST_MODE. -/
def Obligations.SkipsOnAKey : Prop :=
  ∀ (x : Nibble) (s : State) (down : Prop) (k : Nat), k = (s.getV x).toNat % 16 →
    (s.cfg.keyTestMode = .fixed → (down ↔ s.keys.toNat / 2 ^ k % 2 = 1)) →
    (s.cfg.keyTestMode = .reference → (down ↔ k = 0 ∧ s.keys.toNat % 2 = 1)) →
    EncodedAs (.skp x) (0xE09E + 0x100 * x.toNat) ∧ EncodedAs (.sknp x) (0xE0A1 + 0x100 * x.toNat) ∧
    (∃ t, exec (.skp x) s = .next t ∧ (down → t.pc = s.pc + 4#16) ∧ (¬ down → t.pc = s.pc + 2#16) ∧
      SameRegsBut [] s t ∧ SameButRegs s t) ∧
    (∃ t, exec (.sknp x) s = .next t ∧ (down → t.pc = s.pc + 2#16) ∧ (¬ down → t.pc = s.pc + 4#16) ∧
      SameRegsBut [] s t ∧ SameButRegs s t)

/-- 44_keys_timers.md R183, R185, R186: FX07 reads DT, FX15 writes DT and FX18 writes ST; sound is active at once when ST is not 0. -/
def Obligations.TimersAreReadAndWritten : Prop :=
  ∀ (x : Nibble) (s : State),
    EncodedAs (.ldVxDt x) (0xF007 + 0x100 * x.toNat) ∧ EncodedAs (.ldDtVx x) (0xF015 + 0x100 * x.toNat) ∧
    EncodedAs (.ldStVx x) (0xF018 + 0x100 * x.toNat) ∧
    (∃ t, exec (.ldVxDt x) s = .next t ∧ t.getV x = s.dt ∧ SameRegsBut [x] s t ∧ t.pc = s.pc + 2#16 ∧ SameButRegs s t) ∧
    (∃ t, exec (.ldDtVx x) s = .next t ∧ t.dt = s.getV x ∧ t.st = s.st ∧ t.pc = s.pc + 2#16 ∧ SameRegsBut [] s t ∧
      t.index = s.index ∧ t.stack = s.stack ∧ SameMem s t ∧ SameDisplay s t ∧ SameControl s t) ∧
    (∃ t, exec (.ldStVx x) s = .next t ∧ t.st = s.getV x ∧ (t.soundActive = true ↔ s.getV x ≠ 0x00#8) ∧ t.dt = s.dt ∧
      t.pc = s.pc + 2#16 ∧ SameRegsBut [] s t ∧ t.index = s.index ∧ t.stack = s.stack ∧ SameMem s t ∧ SameDisplay s t ∧
      SameControl s t)

/-- 44_keys_timers.md R184: FX0A puts the lowest-numbered pressed key in VX, or leaves everything as it was, `pc` included, when no key
is pressed. -/
def Obligations.WaitForKeyTakesTheLowestKey : Prop :=
  ∀ (x : Nibble) (s : State), EncodedAs (.ldVxK x) (0xF00A + 0x100 * x.toNat) ∧
    (s.keys = 0x0000#16 → exec (.ldVxK x) s = .next s) ∧
    (∀ k, k < 16 → s.keys.getLsbD k = true → (∀ j, j < k → s.keys.getLsbD j = false) →
      ∃ t, exec (.ldVxK x) s = .next t ∧ (t.getV x).toNat = k ∧ SameRegsBut [x] s t ∧ t.pc = s.pc + 2#16 ∧
        SameButRegs s t) ∧
    (s.keys ≠ 0x0000#16 → ∃ k, k < 16 ∧ s.keys.getLsbD k = true ∧ ∀ j, j < k → s.keys.getLsbD j = false)

/-! ### Host commands -/

/-- 60_exceptions.md R220: TICK takes 1 from each timer that is not 0, and changes nothing else, halted or not. -/
def Obligations.TickCountsEachTimerDown : Prop :=
  ∀ s : State, ∃ t, perform .tick s = .next t ∧ t.dt.toNat = s.dt.toNat - 1 ∧ t.st.toNat = s.st.toNat - 1 ∧ t.pc = s.pc ∧
    SameRegsBut [] s t ∧ t.index = s.index ∧ t.stack = s.stack ∧ SameMem s t ∧ SameDisplay s t ∧ SameControl s t

/-- 60_exceptions.md R222, R223: SET_KEY sets or clears its bit and no other, QUERY_KEY answers the key test and changes nothing, and both
refuse a key outside 0..15. -/
def Obligations.KeyCommandsSetAndTestOneKey : Prop :=
  ∀ (key : Nat) (pressed : Bool) (s : State),
    (key < 16 →
      (∃ t, perform (.setKey key pressed) s = .next t ∧ t = { s with keys := t.keys } ∧ t.keys.getLsbD key = pressed ∧
        (∀ j, j ≠ key → t.keys.getLsbD j = s.keys.getLsbD j) ∧
        (s.cfg.keyTestMode = .fixed → queryKey key t = .ok pressed)) ∧
      perform (.queryKey key) s = .next s ∧
      (s.cfg.keyTestMode = .fixed → queryKey key s = .ok (s.keys.getLsbD key)) ∧
      (s.cfg.keyTestMode = .reference → queryKey key s = .ok (decide (key = 0) && s.keys.getLsbD 0))) ∧
    (16 ≤ key → perform (.setKey key pressed) s = .refused .keyOutOfRange ∧
      perform (.queryKey key) s = .refused .keyOutOfRange ∧ queryKey key s = .error .keyOutOfRange)

/-- 20_memory.md R65: HOST_WRITE writes one byte of memory and nothing else, and is refused at 4096 and above. -/
def Obligations.HostWriteWritesOneByte : Prop :=
  ∀ (addr : Nat) (byte : Byte) (s : State),
    (addr < 4096 → ∃ t, perform (.hostWrite addr byte) s = .next t ∧ t.hostRead addr = .ok byte ∧
      (∀ a, a ≠ addr → t.hostRead a = s.hostRead a) ∧ t = { s with mem := t.mem }) ∧
    (4096 ≤ addr → perform (.hostWrite addr byte) s = .refused .hostAddressOutOfRange)

/-- 60_exceptions.md R226, 10_state.md R46: COPY_STATE makes every snapshot field the source's and changes neither the latch, nor `diag`,
nor the parameters. -/
def Obligations.CopyStateTakesTheSnapshot : Prop :=
  ∀ s source : State, ∃ t, perform (.copyState source) s = .next t ∧ (∀ a, t.mem.read a = source.mem.read a) ∧
    t.display = source.display ∧ (∀ z, t.getV z = source.getV z) ∧ t.stack = source.stack ∧ t.pc = source.pc ∧
    t.index = source.index ∧ t.dt = source.dt ∧ t.st = source.st ∧ t.keys = source.keys ∧ t.quirks = source.quirks ∧
    t.fault = s.fault ∧ t.diag = s.diag ∧ t.cfg = s.cfg

/-- 60_exceptions.md R227, R228: CLEAR_DISPLAY makes every cell false, SET_QUIRKS sets the quirks bit, and each changes nothing else. -/
def Obligations.ClearDisplayAndSetQuirks : Prop :=
  ∀ (q : Bool) (s : State),
    (∃ t, perform .clearDisplay s = .next t ∧ (∀ x y, x < 64 → y < 32 → t.display.cell x y = false) ∧
      t = { s with display := t.display }) ∧
    (∃ t, perform (.setQuirks q) s = .next t ∧ t.quirks = q ∧ t = { s with quirks := t.quirks })

/-- 70_reset_and_hazards.md R247: at a self-loop end the next and every later STEP changes nothing of the spec's state, and the end
stays. -/
def Obligations.SelfLoopNeverLeaves : Prop :=
  ∀ (k : Nat) (s : State), s.fault.cause = none → s.selfLoopEnd →
    ∃ t, Sys2Proof.core.run k s = .next t ∧ SameArchitecture s t ∧ t.pc = s.pc ∧ t.diag = s.diag ∧ t.fault = s.fault ∧
      t.selfLoopEnd
end

