-- ==== Sys2Proof/Laws/Decode.lean ====
section
/-! SUPPORT. The fields of the encodings and of the fetched bytes (30_encoding.md R72, R73; 20_memory.md R51). -/

namespace Sys2Proof

/-! ### The bits of the encodings and of the fields -/

theorem getLsbD_encodeNNN (op : Nibble) (nnn : Addr12) (i : Nat) :
    (encodeNNN op nnn).getLsbD i = if i < 12 then nnn.getLsbD i else op.getLsbD (i - 12) :=
  BitVec.getLsbD_append

theorem getLsbD_encodeXNN (op x : Nibble) (nn : Byte) (i : Nat) :
    (encodeXNN op x nn).getLsbD i =
      if i < 8 then nn.getLsbD i else if i < 12 then x.getLsbD (i - 8) else op.getLsbD (i - 12) := by
  have h : ∀ i, (x ++ nn : Addr12).getLsbD i = if i < 8 then nn.getLsbD i else x.getLsbD (i - 8) := fun i =>
    BitVec.getLsbD_append
  rw [encodeXNN, getLsbD_encodeNNN, h]
  split_ifs <;> first | rfl | omega

theorem getLsbD_encodeXYN (op x y n : Nibble) (i : Nat) :
    (encodeXYN op x y n).getLsbD i =
      if i < 4 then n.getLsbD i else if i < 8 then y.getLsbD (i - 4) else if i < 12 then x.getLsbD (i - 8)
      else op.getLsbD (i - 12) := by
  have h : ∀ i, (y ++ n : Byte).getLsbD i = if i < 4 then n.getLsbD i else y.getLsbD (i - 4) := fun i =>
    BitVec.getLsbD_append
  rw [encodeXYN, getLsbD_encodeXNN, h]
  split_ifs <;> first | rfl | omega

theorem getLsbD_joinBytes (hi lo : Byte) (i : Nat) :
    (joinBytes hi lo).getLsbD i = if i < 8 then lo.getLsbD i else hi.getLsbD (i - 8) :=
  BitVec.getLsbD_append

theorem getLsbD_fieldOp (w : Word) (i : Nat) : (fieldOp w).getLsbD i = (decide (i < 4) && w.getLsbD (12 + i)) :=
  BitVec.getLsbD_extractLsb' ..

theorem getLsbD_fieldX (w : Word) (i : Nat) : (fieldX w).getLsbD i = (decide (i < 4) && w.getLsbD (8 + i)) :=
  BitVec.getLsbD_extractLsb' ..

theorem getLsbD_fieldY (w : Word) (i : Nat) : (fieldY w).getLsbD i = (decide (i < 4) && w.getLsbD (4 + i)) :=
  BitVec.getLsbD_extractLsb' ..

theorem getLsbD_fieldN (w : Word) (i : Nat) : (fieldN w).getLsbD i = (decide (i < 4) && w.getLsbD i) := by
  have h := BitVec.getLsbD_extractLsb' 0 4 w i
  rwa [Nat.zero_add] at h

theorem getLsbD_fieldNN (w : Word) (i : Nat) : (fieldNN w).getLsbD i = (decide (i < 8) && w.getLsbD i) := by
  have h := BitVec.getLsbD_extractLsb' 0 8 w i
  rwa [Nat.zero_add] at h

theorem getLsbD_fieldNNN (w : Word) (i : Nat) : (fieldNNN w).getLsbD i = (decide (i < 12) && w.getLsbD i) := by
  have h := BitVec.getLsbD_extractLsb' 0 12 w i
  rwa [Nat.zero_add] at h

theorem getLsbD_highByte (w : Word) (i : Nat) : (highByte w).getLsbD i = (decide (i < 8) && w.getLsbD (8 + i)) :=
  BitVec.getLsbD_extractLsb' ..

theorem getLsbD_lowByte (w : Word) (i : Nat) : (lowByte w).getLsbD i = (decide (i < 8) && w.getLsbD i) := by
  have h := BitVec.getLsbD_extractLsb' 0 8 w i
  rwa [Nat.zero_add] at h

/-! ### The fields of the encodings -/

@[simp] theorem fieldOp_encodeNNN (op : Nibble) (nnn : Addr12) : fieldOp (encodeNNN op nnn) = op := by
  refine BitVec.eq_of_getLsbD_eq fun i hi => ?_
  rw [getLsbD_fieldOp, getLsbD_encodeNNN]
  simp [hi]

@[simp] theorem fieldNNN_encodeNNN (op : Nibble) (nnn : Addr12) : fieldNNN (encodeNNN op nnn) = nnn := by
  refine BitVec.eq_of_getLsbD_eq fun i hi => ?_
  rw [getLsbD_fieldNNN, getLsbD_encodeNNN]
  simp [hi]

@[simp] theorem fieldOp_encodeXNN (op x : Nibble) (nn : Byte) : fieldOp (encodeXNN op x nn) = op := by
  simp [encodeXNN]

@[simp] theorem fieldX_encodeXNN (op x : Nibble) (nn : Byte) : fieldX (encodeXNN op x nn) = x := by
  refine BitVec.eq_of_getLsbD_eq fun i hi => ?_
  have h : 8 + i < 12 := by omega
  rw [getLsbD_fieldX, getLsbD_encodeXNN]
  simp [hi, h]

@[simp] theorem fieldNN_encodeXNN (op x : Nibble) (nn : Byte) : fieldNN (encodeXNN op x nn) = nn := by
  refine BitVec.eq_of_getLsbD_eq fun i hi => ?_
  rw [getLsbD_fieldNN, getLsbD_encodeXNN]
  simp [hi]

@[simp] theorem fieldOp_encodeXYN (op x y n : Nibble) : fieldOp (encodeXYN op x y n) = op := by
  simp [encodeXYN]

@[simp] theorem fieldX_encodeXYN (op x y n : Nibble) : fieldX (encodeXYN op x y n) = x := by
  simp [encodeXYN]

@[simp] theorem fieldY_encodeXYN (op x y n : Nibble) : fieldY (encodeXYN op x y n) = y := by
  refine BitVec.eq_of_getLsbD_eq fun i hi => ?_
  have h : 4 + i < 8 := by omega
  rw [getLsbD_fieldY, getLsbD_encodeXYN]
  simp [hi, h]

@[simp] theorem fieldN_encodeXYN (op x y n : Nibble) : fieldN (encodeXYN op x y n) = n := by
  refine BitVec.eq_of_getLsbD_eq fun i hi => ?_
  rw [getLsbD_fieldN, getLsbD_encodeXYN]
  simp [hi]

/-! ### A word is made of its fields -/

/-- An opcode is its field 1 and its NNN. -/
theorem encodeNNN_fields (w : Word) : encodeNNN (fieldOp w) (fieldNNN w) = w := by
  refine BitVec.eq_of_getLsbD_eq fun i hi => ?_
  rw [getLsbD_encodeNNN, getLsbD_fieldOp, getLsbD_fieldNNN]
  split
  · simp [*]
  · have h1 : i - 12 < 4 := by omega
    have h2 : 12 + (i - 12) = i := by omega
    simp [h1, h2]

/-- An opcode is its field 1, its X and its NN. -/
theorem encodeXNN_fields (w : Word) : encodeXNN (fieldOp w) (fieldX w) (fieldNN w) = w := by
  refine BitVec.eq_of_getLsbD_eq fun i hi => ?_
  rw [getLsbD_encodeXNN, getLsbD_fieldOp, getLsbD_fieldX, getLsbD_fieldNN]
  split_ifs
  · simp [*]
  · have h1 : i - 8 < 4 := by omega
    have h2 : 8 + (i - 8) = i := by omega
    simp [h1, h2]
  · have h1 : i - 12 < 4 := by omega
    have h2 : 12 + (i - 12) = i := by omega
    simp [h1, h2]

/-- An opcode is its field 1, its X, its Y and its N. -/
theorem encodeXYN_fields (w : Word) : encodeXYN (fieldOp w) (fieldX w) (fieldY w) (fieldN w) = w := by
  refine BitVec.eq_of_getLsbD_eq fun i hi => ?_
  rw [getLsbD_encodeXYN, getLsbD_fieldOp, getLsbD_fieldX, getLsbD_fieldY, getLsbD_fieldN]
  split_ifs
  · simp [*]
  · have h1 : i - 4 < 4 := by omega
    have h2 : 4 + (i - 4) = i := by omega
    simp [h1, h2]
  · have h1 : i - 8 < 4 := by omega
    have h2 : 8 + (i - 8) = i := by omega
    simp [h1, h2]
  · have h1 : i - 12 < 4 := by omega
    have h2 : 12 + (i - 12) = i := by omega
    simp [h1, h2]

/-! ### An encoding whose fields are a word's fields is that word -/

theorem encodeNNN_eq_self {w : Word} {op : Nibble} {nnn : Addr12} (h : fieldOp w = op) (h1 : fieldNNN w = nnn) :
    encodeNNN op nnn = w := by
  subst h h1
  exact encodeNNN_fields w

theorem encodeXNN_eq_self {w : Word} {op x : Nibble} {nn : Byte} (h : fieldOp w = op) (h1 : fieldX w = x)
    (h2 : fieldNN w = nn) : encodeXNN op x nn = w := by
  subst h h1 h2
  exact encodeXNN_fields w

theorem encodeXYN_eq_self {w : Word} {op x y n : Nibble} (h : fieldOp w = op) (h1 : fieldX w = x) (h2 : fieldY w = y)
    (h3 : fieldN w = n) : encodeXYN op x y n = w := by
  subst h h1 h2 h3
  exact encodeXYN_fields w

/-! ### The encodings as numbers -/

theorem toNat_append_nibble (x : Nibble) {k : Nat} (b : BitVec k) : (x ++ b).toNat = 2 ^ k * x.toNat + b.toNat := by
  rw [BitVec.toNat_append, Nat.shiftLeft_eq, Nat.mul_comm x.toNat, ← Nat.two_pow_add_eq_or_of_lt b.isLt]

theorem toNat_encodeNNN (op : Nibble) (nnn : Addr12) : (encodeNNN op nnn).toNat = 0x1000 * op.toNat + nnn.toNat :=
  toNat_append_nibble op nnn

theorem toNat_encodeXNN (op x : Nibble) (nn : Byte) :
    (encodeXNN op x nn).toNat = 0x1000 * op.toNat + 0x100 * x.toNat + nn.toNat := by
  rw [encodeXNN, toNat_encodeNNN, Nat.add_assoc]
  exact congrArg _ (toNat_append_nibble x nn)

theorem toNat_encodeXYN (op x y n : Nibble) :
    (encodeXYN op x y n).toNat = 0x1000 * op.toNat + 0x100 * x.toNat + 0x10 * y.toNat + n.toNat := by
  rw [encodeXYN, toNat_encodeXNN, Nat.add_assoc _ (0x10 * y.toNat)]
  exact congrArg _ (toNat_append_nibble y n)

/-- The two bytes of an opcode joined again (20_memory.md R51). -/
@[simp] theorem joinBytes_high_low (w : Word) : joinBytes (highByte w) (lowByte w) = w := by
  refine BitVec.eq_of_getLsbD_eq fun i hi => ?_
  rw [getLsbD_joinBytes, getLsbD_highByte, getLsbD_lowByte]
  split
  · simp [*]
  · have h1 : i - 8 < 8 := by omega
    have h2 : 8 + (i - 8) = i := by omega
    simp [h1, h2]

@[simp] theorem highByte_joinBytes (hi lo : Byte) : highByte (joinBytes hi lo) = hi := by
  refine BitVec.eq_of_getLsbD_eq fun i h => ?_
  rw [getLsbD_highByte, getLsbD_joinBytes]
  simp [h]

@[simp] theorem lowByte_joinBytes (hi lo : Byte) : lowByte (joinBytes hi lo) = lo := by
  refine BitVec.eq_of_getLsbD_eq fun i h => ?_
  rw [getLsbD_lowByte, getLsbD_joinBytes]
  simp [h]

/-- The decoder on two bytes is the decoder on the word they make. -/
theorem decodeBytes_two (hi lo : Byte) (rest : List Byte) :
    decodeBytes (hi :: lo :: rest) =
      match decode (joinBytes hi lo) with
      | .ok i => .ok (i, rest)
      | .error e => .error e := rfl

/-- `decode` answers an instruction exactly where `decodeFields` does. -/
theorem decode_eq_ok {w : Word} {i : Instr} : decode w = .ok i ↔ decodeFields (fieldOp w) w = some i := by
  unfold decode
  cases decodeFields (fieldOp w) w <;> simp

/-- `decode` rejects exactly where `decodeFields` has no row, and says which word (30_encoding.md R79). -/
theorem decode_eq_error {w : Word} {e : DecodeReject} :
    decode w = .error e ↔ decodeFields (fieldOp w) w = none ∧ e = .unrecognized w := by
  unfold decode
  cases decodeFields (fieldOp w) w <;> simp [eq_comm]

end Sys2Proof
end

