-- ==== Sys2Proof/Laws/Display.lean ====
section
/-! SUPPORT. The laws of the display and of the collision detector: a draw in closed form (43_display.md R161 to R163). -/

namespace Sys2Proof.Machine

@[simp] theorem Display.cell_clear (x y : Nat) : Display.clear.cell x y = false := by
  unfold Display.cell Display.clear
  by_cases hy : y < 32 <;> by_cases hx : x < 64 <;> simp [hy, hx]

theorem Display.cell_setCell (d : Display) (x y : Nat) (b : Bool) (hx : x < displayWidth) (hy : y < displayHeight)
    (x' y' : Nat) : (d.setCell x y b).cell x' y' = if x' = x ∧ y' = y then b else d.cell x' y' := by
  have hx : x < 64 := hx
  have hy : y < 32 := hy
  have hdy : d[y]? = some d[y] := by simp [hy]
  have hset : d.setCell x y b = d.setIfInBounds y ((d[y]).setIfInBounds x b) := by simp [Display.setCell, hdy]
  rw [hset]
  unfold Display.cell
  by_cases h1 : y' = y
  · subst h1
    by_cases h2 : x' = x
    · subst h2
      simp [hy, hx]
    · have h2' : ¬ x = x' := fun h => h2 h.symm
      simp [hy, h2, Vector.getElem?_setIfInBounds_ne h2']
  · have h1' : ¬ y = y' := fun h => h1 h.symm
    simp [h1, Vector.getElem?_setIfInBounds_ne h1']

/-- Two displays with the same cells are the same display. -/
theorem Display.ext_cell (d e : Display) (h : ∀ x y, x < displayWidth → y < displayHeight → d.cell x y = e.cell x y) :
    d = e := by
  ext y hy x hx
  have := h x y hx hy
  simpa [Display.cell, hy, hx] using this

theorem drawPixel_cell (acc : Draw) (x y : Nat) (b : Bool) (x' y' : Nat) (hx : x' < displayWidth) (hy : y' < displayHeight) :
    (drawPixel acc x y b).display.cell x' y' =
      ((acc.display.cell x' y') ^^ (decide (x' = x ∧ y' = y) && b)) := by
  unfold drawPixel
  split
  · rename_i h
    rw [Display.cell_setCell _ _ _ _ h.1 h.2]
    by_cases he : x' = x ∧ y' = y
    · obtain ⟨rfl, rfl⟩ := he; simp
    · simp [he]
  · rename_i h
    have : ¬ (x' = x ∧ y' = y) := by rintro ⟨rfl, rfl⟩; exact h ⟨hx, hy⟩
    simp [this]

theorem drawPixel_coll (acc : Draw) (x y : Nat) (b : Bool) :
    (drawPixel acc x y b).coll =
      (acc.coll || (decide (x < displayWidth ∧ y < displayHeight) && (b && acc.display.cell x y))) := by
  unfold drawPixel
  split
  · rename_i h; simp [h]
  · rename_i h; simp [h]

/-- The first `k` columns of a row in closed form: each cell takes the XOR of the bit that lands on it (43_display.md R162). -/
theorem drawColumns_cell (row : Byte) (x0 y : Nat) (acc : Draw) (k x' y' : Nat) (hx : x' < displayWidth)
    (hy : y' < displayHeight) :
    (drawColumns row x0 y acc k).display.cell x' y' =
      ((acc.display.cell x' y') ^^
        (decide (y' = y ∧ x0 ≤ x' ∧ x' < x0 + k) && row.getLsbD (7 - (x' - x0)))) := by
  induction k with
  | zero =>
    have : ¬ (y' = y ∧ x0 ≤ x' ∧ x' < x0 + 0) := by omega
    rw [drawColumns, decide_eq_false this]
    simp
  | succ k ih =>
    rw [drawColumns, drawPixel_cell _ _ _ _ _ _ hx hy, ih]
    by_cases h1 : x' = x0 + k ∧ y' = y
    · obtain ⟨rfl, rfl⟩ := h1
      simp
    · by_cases h2 : y' = y ∧ x0 ≤ x' ∧ x' < x0 + k
      · have h3 : y' = y ∧ x0 ≤ x' ∧ x' < x0 + (k + 1) := by omega
        rw [decide_eq_false h1, decide_eq_true h2, decide_eq_true h3]
        simp
      · have h3 : ¬ (y' = y ∧ x0 ≤ x' ∧ x' < x0 + (k + 1)) := by omega
        rw [decide_eq_false h1, decide_eq_false h2, decide_eq_false h3]
        simp

/-- The collision bit of the first `k` columns: some set bit landed on a lit cell of the display (43_display.md R162). -/
theorem drawColumns_coll (row : Byte) (x0 y : Nat) (acc : Draw) (k : Nat) :
    (drawColumns row x0 y acc k).coll = true ↔
      acc.coll = true ∨ ∃ c, c < k ∧ x0 + c < displayWidth ∧ y < displayHeight ∧ row.getLsbD (7 - c) = true ∧
        acc.display.cell (x0 + c) y = true := by
  induction k with
  | zero => simp [drawColumns]
  | succ k ih =>
    rw [drawColumns, drawPixel_coll, Bool.or_eq_true, ih]
    constructor
    · rintro ((h | ⟨c, hc, h⟩) | h)
      · exact .inl h
      · exact .inr ⟨c, by omega, h⟩
      · simp only [Bool.and_eq_true, decide_eq_true_eq] at h
        obtain ⟨⟨hx, hy⟩, hb, hd⟩ := h
        rw [drawColumns_cell _ _ _ _ _ _ _ hx hy] at hd
        refine .inr ⟨k, by omega, hx, hy, hb, ?_⟩
        simpa using hd
    · rintro (h | ⟨c, hc, hx, hy, hb, hd⟩)
      · exact .inl (.inl h)
      · rcases Nat.lt_succ_iff_lt_or_eq.mp hc with hc | rfl
        · exact .inl (.inr ⟨c, hc, hx, hy, hb, hd⟩)
        · refine .inr ?_
          simp only [Bool.and_eq_true, decide_eq_true_eq]
          refine ⟨⟨hx, hy⟩, hb, ?_⟩
          rw [drawColumns_cell _ _ _ _ _ _ _ hx hy, hd]
          simp

/-- The first `n` rows of a sprite in closed form: each cell takes the XOR of the sprite bit that lands on it (43_display.md R161 to
R163). -/
theorem drawRows_cell (rows : Nat → Byte) (x0 y0 : Nat) (acc : Draw) (n x' y' : Nat) (hx : x' < displayWidth)
    (hy : y' < displayHeight) :
    (drawRows rows x0 y0 acc n).display.cell x' y' = ((acc.display.cell x' y') ^^ spriteBit rows x0 y0 n x' y') := by
  induction n with
  | zero =>
    have : ¬ (x0 ≤ x' ∧ x' < x0 + 8 ∧ y0 ≤ y' ∧ y' < y0 + 0) := by omega
    rw [drawRows, spriteBit, decide_eq_false this]
    simp
  | succ n ih =>
    rw [drawRows, drawColumns_cell _ _ _ _ _ _ _ hx hy, ih]
    unfold spriteBit
    by_cases h1 : y' = y0 + n
    · subst h1
      by_cases h2 : x0 ≤ x' ∧ x' < x0 + 8
      · simp [h2]
      · simp [h2]
    · by_cases h2 : x0 ≤ x' ∧ x' < x0 + 8 ∧ y0 ≤ y' ∧ y' < y0 + n
      · have h3 : x0 ≤ x' ∧ x' < x0 + 8 ∧ y0 ≤ y' ∧ y' < y0 + (n + 1) := by omega
        rw [decide_eq_false (by simp [h1] : ¬ (y' = y0 + n ∧ x0 ≤ x' ∧ x' < x0 + 8)), decide_eq_true h2, decide_eq_true h3]
        simp
      · have h3 : ¬ (x0 ≤ x' ∧ x' < x0 + 8 ∧ y0 ≤ y' ∧ y' < y0 + (n + 1)) := by omega
        rw [decide_eq_false (by simp [h1] : ¬ (y' = y0 + n ∧ x0 ≤ x' ∧ x' < x0 + 8)), decide_eq_false h2, decide_eq_false h3]
        simp

/-- The collision bit of the first `n` rows: some sprite bit landed on a cell of the display that was lit before (43_display.md
R162). -/
theorem drawRows_coll (rows : Nat → Byte) (x0 y0 : Nat) (acc : Draw) (n : Nat) :
    (drawRows rows x0 y0 acc n).coll = true ↔
      acc.coll = true ∨ ∃ x y, x < displayWidth ∧ y < displayHeight ∧ spriteBit rows x0 y0 n x y = true ∧
        acc.display.cell x y = true := by
  induction n with
  | zero =>
    have h0 : ∀ x y, spriteBit rows x0 y0 0 x y = false := fun x y => by
      have : ¬ (x0 ≤ x ∧ x < x0 + 8 ∧ y0 ≤ y ∧ y < y0 + 0) := by omega
      rw [spriteBit, decide_eq_false this, Bool.false_and]
    simp [drawRows, h0]
  | succ n ih =>
    rw [drawRows, drawColumns_coll, ih]
    unfold spriteBit
    simp only [Bool.and_eq_true, decide_eq_true_eq]
    constructor
    · rintro ((h | ⟨x, y, hx, hy, ⟨h, hb⟩, hd⟩) | ⟨c, hc, hx, hy, hb, hd⟩)
      · exact .inl h
      · exact .inr ⟨x, y, hx, hy, ⟨by omega, hb⟩, hd⟩
      · rw [drawRows_cell _ _ _ _ _ _ _ hx hy] at hd
        have hs : spriteBit rows x0 y0 n (x0 + c) (y0 + n) = false := by simp [spriteBit]
        rw [hs, Bool.xor_false] at hd
        refine .inr ⟨x0 + c, y0 + n, hx, hy, ⟨by omega, ?_⟩, hd⟩
        simpa using hb
    · rintro (h | ⟨x, y, hx, hy, ⟨h, hb⟩, hd⟩)
      · exact .inl (.inl h)
      · by_cases h1 : y = y0 + n
        · subst h1
          refine .inr ⟨x - x0, by omega, by omega, hy, by simpa using hb, ?_⟩
          have he : x0 + (x - x0) = x := by omega
          rw [he, drawRows_cell _ _ _ _ _ _ _ hx hy, hd]
          have hs : spriteBit rows x0 y0 n x (y0 + n) = false := by simp [spriteBit]
          simp [hs]
        · exact .inl (.inr ⟨x, y, hx, hy, ⟨by omega, hb⟩, hd⟩)

/-- A draw lights a cell of the display exactly when a set sprite bit lands on an unlit cell (43_display.md R161, R162; what they give in
place of the third sentence of R164, log entry 7). -/
theorem drawRows_lights (rows : Nat → Byte) (x0 y0 : Nat) (acc : Draw) (n : Nat) :
    (∃ x y, x < displayWidth ∧ y < displayHeight ∧ acc.display.cell x y = false ∧
        (drawRows rows x0 y0 acc n).display.cell x y = true) ↔
      ∃ x y, x < displayWidth ∧ y < displayHeight ∧ acc.display.cell x y = false ∧ spriteBit rows x0 y0 n x y = true := by
  constructor <;> rintro ⟨x, y, hx, hy, hd, h⟩
  · rw [drawRows_cell _ _ _ _ _ _ _ hx hy, hd, Bool.false_xor] at h
    exact ⟨x, y, hx, hy, hd, h⟩
  · refine ⟨x, y, hx, hy, hd, ?_⟩
    rw [drawRows_cell _ _ _ _ _ _ _ hx hy, hd, Bool.false_xor, h]

/-- The third sentence of 43_display.md R164 where R161 and R162 give it: a draw that lands on no lit cell lights a cell exactly when a set
sprite bit lands on the display (log entry 7). -/
theorem drawRows_lights_of_unlit (rows : Nat → Byte) (x0 y0 : Nat) (acc : Draw) (n : Nat)
    (hu : ∀ x y, x < displayWidth → y < displayHeight → spriteBit rows x0 y0 n x y = true → acc.display.cell x y = false) :
    (∃ x y, x < displayWidth ∧ y < displayHeight ∧ acc.display.cell x y = false ∧
        (drawRows rows x0 y0 acc n).display.cell x y = true) ↔
      ∃ x y, x < displayWidth ∧ y < displayHeight ∧ spriteBit rows x0 y0 n x y = true := by
  rw [drawRows_lights]
  constructor
  · rintro ⟨x, y, hx, hy, _, h⟩
    exact ⟨x, y, hx, hy, h⟩
  · rintro ⟨x, y, hx, hy, h⟩
    exact ⟨x, y, hx, hy, hu x y hx hy h, h⟩

end Sys2Proof.Machine
end

