-- ==== Sys2Proof/Laws/Memory.lean ====
section
/-! SUPPORT. The laws of memory: a read after a write, the frame of a write, the canonical form (20_memory.md R60). -/

namespace Sys2Proof.Machine

@[simp] theorem Memory.read_nil (a : Nat) : Memory.read [] a = unlistedByte := rfl

theorem Memory.read_cons (c : Host.Cell) (m : Memory) (a : Nat) :
    Memory.read (c :: m) a = if c.1 = a then c.2 else Memory.read m a := rfl

theorem Memory.read_unlist (m : Memory) (a b : Nat) :
    Memory.read (Memory.unlist m a) b = if a = b then unlistedByte else Memory.read m b := by
  induction m with
  | nil => simp [Memory.unlist]
  | cons c m ih =>
    by_cases hc : c.1 = a
    · have : Memory.unlist (c :: m) a = Memory.unlist m a := by simp [Memory.unlist, hc]
      rw [this, ih, Memory.read_cons, hc]
      split <;> rfl
    · have : Memory.unlist (c :: m) a = c :: Memory.unlist m a := by simp [Memory.unlist, hc]
      rw [this, Memory.read_cons, Memory.read_cons, ih]
      split_ifs <;> first | rfl | omega

theorem Memory.read_enlist (a : Nat) (v : Byte) (m : Memory) (h : ∀ c ∈ m, c.1 ≠ a) (b : Nat) :
    Memory.read (Memory.enlist a v m) b = if a = b then v else Memory.read m b := by
  induction m with
  | nil => simp [Memory.enlist, Memory.read_cons]
  | cons c m ih =>
    have hc : c.1 ≠ a := h c (by simp)
    have ih := ih (fun d hd => h d (by simp [hd]))
    unfold Memory.enlist
    split
    · rw [Memory.read_cons]
    · rw [Memory.read_cons, Memory.read_cons, ih]
      split_ifs <;> first | rfl | omega

theorem Memory.mem_unlist {m : Memory} {a : Nat} {c : Host.Cell} : c ∈ Memory.unlist m a ↔ c ∈ m ∧ c.1 ≠ a := by
  simp [Memory.unlist]

theorem Memory.mem_enlist {a : Nat} {v : Byte} {m : Memory} {c : Host.Cell} :
    c ∈ Memory.enlist a v m ↔ c = (a, v) ∨ c ∈ m := by
  induction m with
  | nil => simp [Memory.enlist]
  | cons d m ih =>
    unfold Memory.enlist
    split
    · simp
    · simp [ih]; tauto

/-- What a write of one byte does to every read: it holds of every list of cells, canonical or not. -/
theorem Memory.read_write (m : Memory) (a : Nat) (v : Byte) (b : Nat) :
    Memory.read (Memory.write m a v) b = if a = b then v else Memory.read m b := by
  unfold Memory.write
  split
  · rw [Memory.read_unlist]; simp [*]
  · rw [Memory.read_enlist _ _ _ (fun c hc => (Memory.mem_unlist.mp hc).2), Memory.read_unlist]
    split <;> rfl

/-- What a write of consecutive bytes does to every read. -/
theorem Memory.read_writeBytes (m : Memory) (base : Nat) (bs : List Byte) (a : Nat) :
    Memory.read (Memory.writeBytes m base bs) a =
      if base ≤ a ∧ a < base + bs.length then bs.getD (a - base) unlistedByte else Memory.read m a := by
  induction bs generalizing m base with
  | nil =>
    have h : ¬ (base ≤ a ∧ a < base + ([] : List Byte).length) := by simp
    rw [if_neg h]; rfl
  | cons b bs ih =>
    rw [Memory.writeBytes, ih, Memory.read_write]
    simp only [List.length_cons]
    by_cases h1 : base = a
    · subst h1
      simp
    · by_cases h2 : base + 1 ≤ a ∧ a < base + 1 + bs.length
      · have h3 : base ≤ a ∧ a < base + (bs.length + 1) := by omega
        have h4 : a - base = a - (base + 1) + 1 := by omega
        simp only [h2, h3, h4, and_self, if_true, List.getD_cons_succ]
      · have h3 : ¬ (base ≤ a ∧ a < base + (bs.length + 1)) := by omega
        simp only [h2, h3, h1, if_false]

theorem Memory.unlist_wf {m : Memory} (h : m.wf) (a : Nat) : (Memory.unlist m a).wf :=
  ⟨h.1.filter _, fun c hc => h.2 c (Memory.mem_unlist.mp hc).1⟩

theorem Memory.enlist_wf {m : Memory} (h : m.wf) {a : Nat} {v : Byte} (ha : a < memSize) (hv : v ≠ unlistedByte)
    (hm : ∀ c ∈ m, c.1 ≠ a) : (Memory.enlist a v m).wf := by
  refine ⟨?_, fun c hc => ?_⟩
  · induction m with
    | nil => simp [Memory.enlist]
    | cons d m ih =>
      obtain ⟨hd, hp⟩ := List.pairwise_cons.mp h.1
      have hda : d.1 ≠ a := hm d (by simp)
      unfold Memory.enlist
      split
      · rename_i hlt
        refine List.pairwise_cons.mpr ⟨fun c hc => ?_, h.1⟩
        rcases List.mem_cons.mp hc with rfl | hc
        · exact hlt
        · exact Nat.lt_trans hlt (hd c hc)
      · rename_i hge
        refine List.pairwise_cons.mpr ⟨fun c hc => ?_, ?_⟩
        · rcases Memory.mem_enlist.mp hc with rfl | hc
          · exact Nat.lt_of_le_of_ne (Nat.not_lt.mp hge) hda
          · exact hd c hc
        · exact ih ⟨hp, fun c hc => h.2 c (by simp [hc])⟩ (fun c hc => hm c (by simp [hc]))
  · rcases Memory.mem_enlist.mp hc with rfl | hc
    · exact ⟨ha, hv⟩
    · exact h.2 c hc

/-- A write inside memory keeps the canonical form. -/
theorem Memory.write_wf {m : Memory} (h : m.wf) {a : Nat} (ha : a < memSize) (v : Byte) : (Memory.write m a v).wf := by
  unfold Memory.write
  split
  · exact Memory.unlist_wf h a
  · rename_i hv
    exact Memory.enlist_wf (Memory.unlist_wf h a) ha hv (fun c hc => (Memory.mem_unlist.mp hc).2)

/-- A write of consecutive bytes inside memory keeps the canonical form. -/
theorem Memory.writeBytes_wf {m : Memory} (h : m.wf) {base : Nat} (bs : List Byte) (hb : base + bs.length ≤ memSize) :
    (Memory.writeBytes m base bs).wf := by
  induction bs generalizing m base with
  | nil => exact h
  | cons b bs ih =>
    simp only [List.length_cons] at hb
    exact ih (Memory.write_wf h (by omega) b) (by omega)

theorem Memory.nil_wf : Memory.wf [] := by simp [Memory.wf]

/-- Memory after `RESET` has the canonical form. -/
theorem Memory.afterReset_wf {c : Config} (h : c.wf) : (Memory.afterReset c).wf :=
  Memory.writeBytes_wf Memory.nil_wf _ (by simpa using h)

/-- Memory after `RESET`: the font table at `FONT_BASE`, 0x00 elsewhere (70_reset_and_hazards.md R241). -/
theorem Memory.read_afterReset (c : Config) (a : Nat) :
    Memory.read (Memory.afterReset c) a =
      if c.fontBase ≤ a ∧ a < c.fontBase + fontSize then c.fontTable.toList.getD (a - c.fontBase) unlistedByte
      else unlistedByte := by
  rw [Memory.afterReset, Memory.read_writeBytes]
  simp

end Sys2Proof.Machine
end

