-- ==== Sys2Proof/Laws/State.lean ====
section
/-! SUPPORT. The fields of the state after each update: one lemma per field per update. -/

namespace Sys2Proof.Machine

variable (s : State)

/-! ### `State.advance` -/

@[simp] theorem State.advance_v : s.advance.v = s.v := rfl
@[simp] theorem State.advance_pc : s.advance.pc = s.pc + 2#16 := rfl
@[simp] theorem State.advance_index : s.advance.index = s.index := rfl
@[simp] theorem State.advance_stack : s.advance.stack = s.stack := rfl
@[simp] theorem State.advance_dt : s.advance.dt = s.dt := rfl
@[simp] theorem State.advance_st : s.advance.st = s.st := rfl
@[simp] theorem State.advance_keys : s.advance.keys = s.keys := rfl
@[simp] theorem State.advance_quirks : s.advance.quirks = s.quirks := rfl
@[simp] theorem State.advance_mem : s.advance.mem = s.mem := rfl
@[simp] theorem State.advance_display : s.advance.display = s.display := rfl
@[simp] theorem State.advance_fault : s.advance.fault = s.fault := rfl
@[simp] theorem State.advance_diag : s.advance.diag = s.diag := rfl
@[simp] theorem State.advance_cfg : s.advance.cfg = s.cfg := rfl
@[simp] theorem State.advance_rnd : s.advance.rnd = s.rnd := rfl
@[simp] theorem State.advance_draws : s.advance.draws = s.draws := rfl

/-! ### `State.jump` -/

@[simp] theorem State.jump_v (a : Word) : (s.jump a).v = s.v := rfl
@[simp] theorem State.jump_pc (a : Word) : (s.jump a).pc = a := rfl
@[simp] theorem State.jump_index (a : Word) : (s.jump a).index = s.index := rfl
@[simp] theorem State.jump_stack (a : Word) : (s.jump a).stack = s.stack := rfl
@[simp] theorem State.jump_dt (a : Word) : (s.jump a).dt = s.dt := rfl
@[simp] theorem State.jump_st (a : Word) : (s.jump a).st = s.st := rfl
@[simp] theorem State.jump_keys (a : Word) : (s.jump a).keys = s.keys := rfl
@[simp] theorem State.jump_quirks (a : Word) : (s.jump a).quirks = s.quirks := rfl
@[simp] theorem State.jump_mem (a : Word) : (s.jump a).mem = s.mem := rfl
@[simp] theorem State.jump_display (a : Word) : (s.jump a).display = s.display := rfl
@[simp] theorem State.jump_fault (a : Word) : (s.jump a).fault = s.fault := rfl
@[simp] theorem State.jump_diag (a : Word) : (s.jump a).diag = s.diag := rfl
@[simp] theorem State.jump_cfg (a : Word) : (s.jump a).cfg = s.cfg := rfl
@[simp] theorem State.jump_rnd (a : Word) : (s.jump a).rnd = s.rnd := rfl
@[simp] theorem State.jump_draws (a : Word) : (s.jump a).draws = s.draws := rfl

/-! ### `State.rewind` -/

@[simp] theorem State.rewind_v : s.rewind.v = s.v := rfl
@[simp] theorem State.rewind_pc : s.rewind.pc = s.pc - 2#16 := rfl
@[simp] theorem State.rewind_index : s.rewind.index = s.index := rfl
@[simp] theorem State.rewind_stack : s.rewind.stack = s.stack := rfl
@[simp] theorem State.rewind_dt : s.rewind.dt = s.dt := rfl
@[simp] theorem State.rewind_st : s.rewind.st = s.st := rfl
@[simp] theorem State.rewind_keys : s.rewind.keys = s.keys := rfl
@[simp] theorem State.rewind_quirks : s.rewind.quirks = s.quirks := rfl
@[simp] theorem State.rewind_mem : s.rewind.mem = s.mem := rfl
@[simp] theorem State.rewind_display : s.rewind.display = s.display := rfl
@[simp] theorem State.rewind_fault : s.rewind.fault = s.fault := rfl
@[simp] theorem State.rewind_diag : s.rewind.diag = s.diag := rfl
@[simp] theorem State.rewind_cfg : s.rewind.cfg = s.cfg := rfl
@[simp] theorem State.rewind_rnd : s.rewind.rnd = s.rnd := rfl
@[simp] theorem State.rewind_draws : s.rewind.draws = s.draws := rfl

/-! ### `State.push` -/

@[simp] theorem State.push_v (a : Word) : (s.push a).v = s.v := rfl
@[simp] theorem State.push_pc (a : Word) : (s.push a).pc = s.pc := rfl
@[simp] theorem State.push_index (a : Word) : (s.push a).index = s.index := rfl
@[simp] theorem State.push_stack (a : Word) : (s.push a).stack = s.stack ++ [a] := rfl
@[simp] theorem State.push_dt (a : Word) : (s.push a).dt = s.dt := rfl
@[simp] theorem State.push_st (a : Word) : (s.push a).st = s.st := rfl
@[simp] theorem State.push_keys (a : Word) : (s.push a).keys = s.keys := rfl
@[simp] theorem State.push_quirks (a : Word) : (s.push a).quirks = s.quirks := rfl
@[simp] theorem State.push_mem (a : Word) : (s.push a).mem = s.mem := rfl
@[simp] theorem State.push_display (a : Word) : (s.push a).display = s.display := rfl
@[simp] theorem State.push_fault (a : Word) : (s.push a).fault = s.fault := rfl
@[simp] theorem State.push_diag (a : Word) : (s.push a).diag = s.diag := rfl
@[simp] theorem State.push_cfg (a : Word) : (s.push a).cfg = s.cfg := rfl
@[simp] theorem State.push_rnd (a : Word) : (s.push a).rnd = s.rnd := rfl
@[simp] theorem State.push_draws (a : Word) : (s.push a).draws = s.draws := rfl

/-! ### `State.setIndex` -/

@[simp] theorem State.setIndex_v (a : Word) : (s.setIndex a).v = s.v := rfl
@[simp] theorem State.setIndex_pc (a : Word) : (s.setIndex a).pc = s.pc := rfl
@[simp] theorem State.setIndex_index (a : Word) : (s.setIndex a).index = a := rfl
@[simp] theorem State.setIndex_stack (a : Word) : (s.setIndex a).stack = s.stack := rfl
@[simp] theorem State.setIndex_dt (a : Word) : (s.setIndex a).dt = s.dt := rfl
@[simp] theorem State.setIndex_st (a : Word) : (s.setIndex a).st = s.st := rfl
@[simp] theorem State.setIndex_keys (a : Word) : (s.setIndex a).keys = s.keys := rfl
@[simp] theorem State.setIndex_quirks (a : Word) : (s.setIndex a).quirks = s.quirks := rfl
@[simp] theorem State.setIndex_mem (a : Word) : (s.setIndex a).mem = s.mem := rfl
@[simp] theorem State.setIndex_display (a : Word) : (s.setIndex a).display = s.display := rfl
@[simp] theorem State.setIndex_fault (a : Word) : (s.setIndex a).fault = s.fault := rfl
@[simp] theorem State.setIndex_diag (a : Word) : (s.setIndex a).diag = s.diag := rfl
@[simp] theorem State.setIndex_cfg (a : Word) : (s.setIndex a).cfg = s.cfg := rfl
@[simp] theorem State.setIndex_rnd (a : Word) : (s.setIndex a).rnd = s.rnd := rfl
@[simp] theorem State.setIndex_draws (a : Word) : (s.setIndex a).draws = s.draws := rfl

/-! ### `State.setDisplay` -/

@[simp] theorem State.setDisplay_v (d : Display) : (s.setDisplay d).v = s.v := rfl
@[simp] theorem State.setDisplay_pc (d : Display) : (s.setDisplay d).pc = s.pc := rfl
@[simp] theorem State.setDisplay_index (d : Display) : (s.setDisplay d).index = s.index := rfl
@[simp] theorem State.setDisplay_stack (d : Display) : (s.setDisplay d).stack = s.stack := rfl
@[simp] theorem State.setDisplay_dt (d : Display) : (s.setDisplay d).dt = s.dt := rfl
@[simp] theorem State.setDisplay_st (d : Display) : (s.setDisplay d).st = s.st := rfl
@[simp] theorem State.setDisplay_keys (d : Display) : (s.setDisplay d).keys = s.keys := rfl
@[simp] theorem State.setDisplay_quirks (d : Display) : (s.setDisplay d).quirks = s.quirks := rfl
@[simp] theorem State.setDisplay_mem (d : Display) : (s.setDisplay d).mem = s.mem := rfl
@[simp] theorem State.setDisplay_display (d : Display) : (s.setDisplay d).display = d := rfl
@[simp] theorem State.setDisplay_fault (d : Display) : (s.setDisplay d).fault = s.fault := rfl
@[simp] theorem State.setDisplay_diag (d : Display) : (s.setDisplay d).diag = s.diag := rfl
@[simp] theorem State.setDisplay_cfg (d : Display) : (s.setDisplay d).cfg = s.cfg := rfl
@[simp] theorem State.setDisplay_rnd (d : Display) : (s.setDisplay d).rnd = s.rnd := rfl
@[simp] theorem State.setDisplay_draws (d : Display) : (s.setDisplay d).draws = s.draws := rfl

/-! ### `State.setDt` -/

@[simp] theorem State.setDt_v (b : Byte) : (s.setDt b).v = s.v := rfl
@[simp] theorem State.setDt_pc (b : Byte) : (s.setDt b).pc = s.pc := rfl
@[simp] theorem State.setDt_index (b : Byte) : (s.setDt b).index = s.index := rfl
@[simp] theorem State.setDt_stack (b : Byte) : (s.setDt b).stack = s.stack := rfl
@[simp] theorem State.setDt_dt (b : Byte) : (s.setDt b).dt = b := rfl
@[simp] theorem State.setDt_st (b : Byte) : (s.setDt b).st = s.st := rfl
@[simp] theorem State.setDt_keys (b : Byte) : (s.setDt b).keys = s.keys := rfl
@[simp] theorem State.setDt_quirks (b : Byte) : (s.setDt b).quirks = s.quirks := rfl
@[simp] theorem State.setDt_mem (b : Byte) : (s.setDt b).mem = s.mem := rfl
@[simp] theorem State.setDt_display (b : Byte) : (s.setDt b).display = s.display := rfl
@[simp] theorem State.setDt_fault (b : Byte) : (s.setDt b).fault = s.fault := rfl
@[simp] theorem State.setDt_diag (b : Byte) : (s.setDt b).diag = s.diag := rfl
@[simp] theorem State.setDt_cfg (b : Byte) : (s.setDt b).cfg = s.cfg := rfl
@[simp] theorem State.setDt_rnd (b : Byte) : (s.setDt b).rnd = s.rnd := rfl
@[simp] theorem State.setDt_draws (b : Byte) : (s.setDt b).draws = s.draws := rfl

/-! ### `State.setSt` -/

@[simp] theorem State.setSt_v (b : Byte) : (s.setSt b).v = s.v := rfl
@[simp] theorem State.setSt_pc (b : Byte) : (s.setSt b).pc = s.pc := rfl
@[simp] theorem State.setSt_index (b : Byte) : (s.setSt b).index = s.index := rfl
@[simp] theorem State.setSt_stack (b : Byte) : (s.setSt b).stack = s.stack := rfl
@[simp] theorem State.setSt_dt (b : Byte) : (s.setSt b).dt = s.dt := rfl
@[simp] theorem State.setSt_st (b : Byte) : (s.setSt b).st = b := rfl
@[simp] theorem State.setSt_keys (b : Byte) : (s.setSt b).keys = s.keys := rfl
@[simp] theorem State.setSt_quirks (b : Byte) : (s.setSt b).quirks = s.quirks := rfl
@[simp] theorem State.setSt_mem (b : Byte) : (s.setSt b).mem = s.mem := rfl
@[simp] theorem State.setSt_display (b : Byte) : (s.setSt b).display = s.display := rfl
@[simp] theorem State.setSt_fault (b : Byte) : (s.setSt b).fault = s.fault := rfl
@[simp] theorem State.setSt_diag (b : Byte) : (s.setSt b).diag = s.diag := rfl
@[simp] theorem State.setSt_cfg (b : Byte) : (s.setSt b).cfg = s.cfg := rfl
@[simp] theorem State.setSt_rnd (b : Byte) : (s.setSt b).rnd = s.rnd := rfl
@[simp] theorem State.setSt_draws (b : Byte) : (s.setSt b).draws = s.draws := rfl

/-! ### `State.storeAtIndex` -/

@[simp] theorem State.storeAtIndex_v (l : List Byte) : (s.storeAtIndex l).v = s.v := rfl
@[simp] theorem State.storeAtIndex_pc (l : List Byte) : (s.storeAtIndex l).pc = s.pc := rfl
@[simp] theorem State.storeAtIndex_index (l : List Byte) : (s.storeAtIndex l).index = s.index := rfl
@[simp] theorem State.storeAtIndex_stack (l : List Byte) : (s.storeAtIndex l).stack = s.stack := rfl
@[simp] theorem State.storeAtIndex_dt (l : List Byte) : (s.storeAtIndex l).dt = s.dt := rfl
@[simp] theorem State.storeAtIndex_st (l : List Byte) : (s.storeAtIndex l).st = s.st := rfl
@[simp] theorem State.storeAtIndex_keys (l : List Byte) : (s.storeAtIndex l).keys = s.keys := rfl
@[simp] theorem State.storeAtIndex_quirks (l : List Byte) : (s.storeAtIndex l).quirks = s.quirks := rfl
@[simp] theorem State.storeAtIndex_mem (l : List Byte) : (s.storeAtIndex l).mem = s.mem.writeBytes s.index.toNat l := rfl
@[simp] theorem State.storeAtIndex_display (l : List Byte) : (s.storeAtIndex l).display = s.display := rfl
@[simp] theorem State.storeAtIndex_fault (l : List Byte) : (s.storeAtIndex l).fault = s.fault := rfl
@[simp] theorem State.storeAtIndex_diag (l : List Byte) : (s.storeAtIndex l).diag = s.diag := rfl
@[simp] theorem State.storeAtIndex_cfg (l : List Byte) : (s.storeAtIndex l).cfg = s.cfg := rfl
@[simp] theorem State.storeAtIndex_rnd (l : List Byte) : (s.storeAtIndex l).rnd = s.rnd := rfl
@[simp] theorem State.storeAtIndex_draws (l : List Byte) : (s.storeAtIndex l).draws = s.draws := rfl

/-! ### `State.clearDisplay` -/

@[simp] theorem State.clearDisplay_v : s.clearDisplay.v = s.v := rfl
@[simp] theorem State.clearDisplay_pc : s.clearDisplay.pc = s.pc := rfl
@[simp] theorem State.clearDisplay_index : s.clearDisplay.index = s.index := rfl
@[simp] theorem State.clearDisplay_stack : s.clearDisplay.stack = s.stack := rfl
@[simp] theorem State.clearDisplay_dt : s.clearDisplay.dt = s.dt := rfl
@[simp] theorem State.clearDisplay_st : s.clearDisplay.st = s.st := rfl
@[simp] theorem State.clearDisplay_keys : s.clearDisplay.keys = s.keys := rfl
@[simp] theorem State.clearDisplay_quirks : s.clearDisplay.quirks = s.quirks := rfl
@[simp] theorem State.clearDisplay_mem : s.clearDisplay.mem = s.mem := rfl
@[simp] theorem State.clearDisplay_display : s.clearDisplay.display = Display.clear := rfl
@[simp] theorem State.clearDisplay_fault : s.clearDisplay.fault = s.fault := rfl
@[simp] theorem State.clearDisplay_diag : s.clearDisplay.diag = s.diag := rfl
@[simp] theorem State.clearDisplay_cfg : s.clearDisplay.cfg = s.cfg := rfl
@[simp] theorem State.clearDisplay_rnd : s.clearDisplay.rnd = s.rnd := rfl
@[simp] theorem State.clearDisplay_draws : s.clearDisplay.draws = s.draws := rfl

/-! ### `State.warn` -/

@[simp] theorem State.warn_v (w : Word) : (s.warn w).v = s.v := rfl
@[simp] theorem State.warn_pc (w : Word) : (s.warn w).pc = s.pc + 2#16 := rfl
@[simp] theorem State.warn_index (w : Word) : (s.warn w).index = s.index := rfl
@[simp] theorem State.warn_stack (w : Word) : (s.warn w).stack = s.stack := rfl
@[simp] theorem State.warn_dt (w : Word) : (s.warn w).dt = s.dt := rfl
@[simp] theorem State.warn_st (w : Word) : (s.warn w).st = s.st := rfl
@[simp] theorem State.warn_keys (w : Word) : (s.warn w).keys = s.keys := rfl
@[simp] theorem State.warn_quirks (w : Word) : (s.warn w).quirks = s.quirks := rfl
@[simp] theorem State.warn_mem (w : Word) : (s.warn w).mem = s.mem := rfl
@[simp] theorem State.warn_display (w : Word) : (s.warn w).display = s.display := rfl
@[simp] theorem State.warn_fault (w : Word) : (s.warn w).fault = s.fault := rfl
@[simp] theorem State.warn_diag (w : Word) : (s.warn w).diag = s.diag ++ [{ opcode := w, addr := s.pc }] := rfl
@[simp] theorem State.warn_cfg (w : Word) : (s.warn w).cfg = s.cfg := rfl
@[simp] theorem State.warn_rnd (w : Word) : (s.warn w).rnd = s.rnd := rfl
@[simp] theorem State.warn_draws (w : Word) : (s.warn w).draws = s.draws := rfl

/-! ### `State.supplyRnd` -/

@[simp] theorem State.supplyRnd_v (r : Byte) : (s.supplyRnd r).v = s.v := rfl
@[simp] theorem State.supplyRnd_pc (r : Byte) : (s.supplyRnd r).pc = s.pc := rfl
@[simp] theorem State.supplyRnd_index (r : Byte) : (s.supplyRnd r).index = s.index := rfl
@[simp] theorem State.supplyRnd_stack (r : Byte) : (s.supplyRnd r).stack = s.stack := rfl
@[simp] theorem State.supplyRnd_dt (r : Byte) : (s.supplyRnd r).dt = s.dt := rfl
@[simp] theorem State.supplyRnd_st (r : Byte) : (s.supplyRnd r).st = s.st := rfl
@[simp] theorem State.supplyRnd_keys (r : Byte) : (s.supplyRnd r).keys = s.keys := rfl
@[simp] theorem State.supplyRnd_quirks (r : Byte) : (s.supplyRnd r).quirks = s.quirks := rfl
@[simp] theorem State.supplyRnd_mem (r : Byte) : (s.supplyRnd r).mem = s.mem := rfl
@[simp] theorem State.supplyRnd_display (r : Byte) : (s.supplyRnd r).display = s.display := rfl
@[simp] theorem State.supplyRnd_fault (r : Byte) : (s.supplyRnd r).fault = s.fault := rfl
@[simp] theorem State.supplyRnd_diag (r : Byte) : (s.supplyRnd r).diag = s.diag := rfl
@[simp] theorem State.supplyRnd_cfg (r : Byte) : (s.supplyRnd r).cfg = s.cfg := rfl
@[simp] theorem State.supplyRnd_rnd (r : Byte) : (s.supplyRnd r).rnd = r := rfl
@[simp] theorem State.supplyRnd_draws (r : Byte) : (s.supplyRnd r).draws = s.draws + 1 := rfl

/-! ### `State.setV` -/

@[simp] theorem State.setV_v (x : Nibble) (b : Byte) : (s.setV x b).v = s.v.set x.toNat b x.isLt := rfl
@[simp] theorem State.setV_pc (x : Nibble) (b : Byte) : (s.setV x b).pc = s.pc := rfl
@[simp] theorem State.setV_index (x : Nibble) (b : Byte) : (s.setV x b).index = s.index := rfl
@[simp] theorem State.setV_stack (x : Nibble) (b : Byte) : (s.setV x b).stack = s.stack := rfl
@[simp] theorem State.setV_dt (x : Nibble) (b : Byte) : (s.setV x b).dt = s.dt := rfl
@[simp] theorem State.setV_st (x : Nibble) (b : Byte) : (s.setV x b).st = s.st := rfl
@[simp] theorem State.setV_keys (x : Nibble) (b : Byte) : (s.setV x b).keys = s.keys := rfl
@[simp] theorem State.setV_quirks (x : Nibble) (b : Byte) : (s.setV x b).quirks = s.quirks := rfl
@[simp] theorem State.setV_mem (x : Nibble) (b : Byte) : (s.setV x b).mem = s.mem := rfl
@[simp] theorem State.setV_display (x : Nibble) (b : Byte) : (s.setV x b).display = s.display := rfl
@[simp] theorem State.setV_fault (x : Nibble) (b : Byte) : (s.setV x b).fault = s.fault := rfl
@[simp] theorem State.setV_diag (x : Nibble) (b : Byte) : (s.setV x b).diag = s.diag := rfl
@[simp] theorem State.setV_cfg (x : Nibble) (b : Byte) : (s.setV x b).cfg = s.cfg := rfl
@[simp] theorem State.setV_rnd (x : Nibble) (b : Byte) : (s.setV x b).rnd = s.rnd := rfl
@[simp] theorem State.setV_draws (x : Nibble) (b : Byte) : (s.setV x b).draws = s.draws := rfl

/-! ### `State.loadRegsUpTo` -/

@[simp] theorem State.loadRegsUpTo_pc (x : Nibble) : (s.loadRegsUpTo x).pc = s.pc := rfl
@[simp] theorem State.loadRegsUpTo_index (x : Nibble) : (s.loadRegsUpTo x).index = s.index := rfl
@[simp] theorem State.loadRegsUpTo_stack (x : Nibble) : (s.loadRegsUpTo x).stack = s.stack := rfl
@[simp] theorem State.loadRegsUpTo_dt (x : Nibble) : (s.loadRegsUpTo x).dt = s.dt := rfl
@[simp] theorem State.loadRegsUpTo_st (x : Nibble) : (s.loadRegsUpTo x).st = s.st := rfl
@[simp] theorem State.loadRegsUpTo_keys (x : Nibble) : (s.loadRegsUpTo x).keys = s.keys := rfl
@[simp] theorem State.loadRegsUpTo_quirks (x : Nibble) : (s.loadRegsUpTo x).quirks = s.quirks := rfl
@[simp] theorem State.loadRegsUpTo_mem (x : Nibble) : (s.loadRegsUpTo x).mem = s.mem := rfl
@[simp] theorem State.loadRegsUpTo_display (x : Nibble) : (s.loadRegsUpTo x).display = s.display := rfl
@[simp] theorem State.loadRegsUpTo_fault (x : Nibble) : (s.loadRegsUpTo x).fault = s.fault := rfl
@[simp] theorem State.loadRegsUpTo_diag (x : Nibble) : (s.loadRegsUpTo x).diag = s.diag := rfl
@[simp] theorem State.loadRegsUpTo_cfg (x : Nibble) : (s.loadRegsUpTo x).cfg = s.cfg := rfl
@[simp] theorem State.loadRegsUpTo_rnd (x : Nibble) : (s.loadRegsUpTo x).rnd = s.rnd := rfl
@[simp] theorem State.loadRegsUpTo_draws (x : Nibble) : (s.loadRegsUpTo x).draws = s.draws := rfl

/-! ### `State.tick` -/

@[simp] theorem State.tick_v : s.tick.v = s.v := rfl
@[simp] theorem State.tick_pc : s.tick.pc = s.pc := rfl
@[simp] theorem State.tick_index : s.tick.index = s.index := rfl
@[simp] theorem State.tick_stack : s.tick.stack = s.stack := rfl
@[simp] theorem State.tick_dt : s.tick.dt = tickTimer s.dt := rfl
@[simp] theorem State.tick_st : s.tick.st = tickTimer s.st := rfl
@[simp] theorem State.tick_keys : s.tick.keys = s.keys := rfl
@[simp] theorem State.tick_quirks : s.tick.quirks = s.quirks := rfl
@[simp] theorem State.tick_mem : s.tick.mem = s.mem := rfl
@[simp] theorem State.tick_display : s.tick.display = s.display := rfl
@[simp] theorem State.tick_fault : s.tick.fault = s.fault := rfl
@[simp] theorem State.tick_diag : s.tick.diag = s.diag := rfl
@[simp] theorem State.tick_cfg : s.tick.cfg = s.cfg := rfl
@[simp] theorem State.tick_rnd : s.tick.rnd = s.rnd := rfl
@[simp] theorem State.tick_draws : s.tick.draws = s.draws := rfl

/-! ### `State.skipIf` -/

theorem State.skipIf_eq (c : Bool) : s.skipIf c = { s with pc := if c then s.pc + 2#16 else s.pc } := by
  cases c <;> rfl

@[simp] theorem State.skipIf_v (c : Bool) : (s.skipIf c).v = s.v := by simp [State.skipIf_eq]
@[simp] theorem State.skipIf_pc (c : Bool) : (s.skipIf c).pc = if c then s.pc + 2#16 else s.pc := by simp [State.skipIf_eq]
@[simp] theorem State.skipIf_index (c : Bool) : (s.skipIf c).index = s.index := by simp [State.skipIf_eq]
@[simp] theorem State.skipIf_stack (c : Bool) : (s.skipIf c).stack = s.stack := by simp [State.skipIf_eq]
@[simp] theorem State.skipIf_dt (c : Bool) : (s.skipIf c).dt = s.dt := by simp [State.skipIf_eq]
@[simp] theorem State.skipIf_st (c : Bool) : (s.skipIf c).st = s.st := by simp [State.skipIf_eq]
@[simp] theorem State.skipIf_keys (c : Bool) : (s.skipIf c).keys = s.keys := by simp [State.skipIf_eq]
@[simp] theorem State.skipIf_quirks (c : Bool) : (s.skipIf c).quirks = s.quirks := by simp [State.skipIf_eq]
@[simp] theorem State.skipIf_mem (c : Bool) : (s.skipIf c).mem = s.mem := by simp [State.skipIf_eq]
@[simp] theorem State.skipIf_display (c : Bool) : (s.skipIf c).display = s.display := by simp [State.skipIf_eq]
@[simp] theorem State.skipIf_fault (c : Bool) : (s.skipIf c).fault = s.fault := by simp [State.skipIf_eq]
@[simp] theorem State.skipIf_diag (c : Bool) : (s.skipIf c).diag = s.diag := by simp [State.skipIf_eq]
@[simp] theorem State.skipIf_cfg (c : Bool) : (s.skipIf c).cfg = s.cfg := by simp [State.skipIf_eq]
@[simp] theorem State.skipIf_rnd (c : Bool) : (s.skipIf c).rnd = s.rnd := by simp [State.skipIf_eq]
@[simp] theorem State.skipIf_draws (c : Bool) : (s.skipIf c).draws = s.draws := by simp [State.skipIf_eq]

/-! ### `State.raise` -/

/-- Everything `raise` can do: it writes the latch and nothing else, and only when no fault is latched (10_state.md R44). -/
theorem State.raise_eq (c : Fault) (w a : Word) :
    s.raise c w a =
      { s with fault := if s.halted then s.fault else { cause := some c, pc := s.pc, opcode := w, addr := a } } := by
  unfold State.raise
  split <;> rfl

@[simp] theorem State.raise_v (c : Fault) (w a : Word) : (s.raise c w a).v = s.v := by simp [State.raise_eq]
@[simp] theorem State.raise_pc (c : Fault) (w a : Word) : (s.raise c w a).pc = s.pc := by simp [State.raise_eq]
@[simp] theorem State.raise_index (c : Fault) (w a : Word) : (s.raise c w a).index = s.index := by simp [State.raise_eq]
@[simp] theorem State.raise_stack (c : Fault) (w a : Word) : (s.raise c w a).stack = s.stack := by simp [State.raise_eq]
@[simp] theorem State.raise_dt (c : Fault) (w a : Word) : (s.raise c w a).dt = s.dt := by simp [State.raise_eq]
@[simp] theorem State.raise_st (c : Fault) (w a : Word) : (s.raise c w a).st = s.st := by simp [State.raise_eq]
@[simp] theorem State.raise_keys (c : Fault) (w a : Word) : (s.raise c w a).keys = s.keys := by simp [State.raise_eq]
@[simp] theorem State.raise_quirks (c : Fault) (w a : Word) : (s.raise c w a).quirks = s.quirks := by simp [State.raise_eq]
@[simp] theorem State.raise_mem (c : Fault) (w a : Word) : (s.raise c w a).mem = s.mem := by simp [State.raise_eq]
@[simp] theorem State.raise_display (c : Fault) (w a : Word) : (s.raise c w a).display = s.display := by simp [State.raise_eq]
@[simp] theorem State.raise_diag (c : Fault) (w a : Word) : (s.raise c w a).diag = s.diag := by simp [State.raise_eq]
@[simp] theorem State.raise_cfg (c : Fault) (w a : Word) : (s.raise c w a).cfg = s.cfg := by simp [State.raise_eq]
@[simp] theorem State.raise_rnd (c : Fault) (w a : Word) : (s.raise c w a).rnd = s.rnd := by simp [State.raise_eq]
@[simp] theorem State.raise_draws (c : Fault) (w a : Word) : (s.raise c w a).draws = s.draws := by simp [State.raise_eq]

/-- The latch after a fault raised with none latched (60_exceptions.md R204). -/
theorem State.raise_fault (c : Fault) (w a : Word) (h : s.halted = false) :
    (s.raise c w a).fault = { cause := some c, pc := s.pc, opcode := w, addr := a } := by
  simp [State.raise_eq, h]

/-! ### `State.writeBack` -/

/-- Everything `writeBack` can do: it writes registers and nothing else (41_alu.md R123). -/
theorem State.writeBack_eq (x : Nibble) (b : Byte) (f : Option Bool) :
    s.writeBack x b f = { s with v := (s.writeBack x b f).v } := by
  unfold State.writeBack
  split
  · rfl
  · split <;> rfl

@[simp] theorem State.writeBack_pc (x : Nibble) (b : Byte) (f : Option Bool) : (s.writeBack x b f).pc = s.pc := by
  rw [State.writeBack_eq]
@[simp] theorem State.writeBack_index (x : Nibble) (b : Byte) (f : Option Bool) : (s.writeBack x b f).index = s.index := by
  rw [State.writeBack_eq]
@[simp] theorem State.writeBack_stack (x : Nibble) (b : Byte) (f : Option Bool) : (s.writeBack x b f).stack = s.stack := by
  rw [State.writeBack_eq]
@[simp] theorem State.writeBack_dt (x : Nibble) (b : Byte) (f : Option Bool) : (s.writeBack x b f).dt = s.dt := by
  rw [State.writeBack_eq]
@[simp] theorem State.writeBack_st (x : Nibble) (b : Byte) (f : Option Bool) : (s.writeBack x b f).st = s.st := by
  rw [State.writeBack_eq]
@[simp] theorem State.writeBack_keys (x : Nibble) (b : Byte) (f : Option Bool) : (s.writeBack x b f).keys = s.keys := by
  rw [State.writeBack_eq]
@[simp] theorem State.writeBack_quirks (x : Nibble) (b : Byte) (f : Option Bool) : (s.writeBack x b f).quirks = s.quirks := by
  rw [State.writeBack_eq]
@[simp] theorem State.writeBack_mem (x : Nibble) (b : Byte) (f : Option Bool) : (s.writeBack x b f).mem = s.mem := by
  rw [State.writeBack_eq]
@[simp] theorem State.writeBack_display (x : Nibble) (b : Byte) (f : Option Bool) : (s.writeBack x b f).display = s.display := by
  rw [State.writeBack_eq]
@[simp] theorem State.writeBack_fault (x : Nibble) (b : Byte) (f : Option Bool) : (s.writeBack x b f).fault = s.fault := by
  rw [State.writeBack_eq]
@[simp] theorem State.writeBack_diag (x : Nibble) (b : Byte) (f : Option Bool) : (s.writeBack x b f).diag = s.diag := by
  rw [State.writeBack_eq]
@[simp] theorem State.writeBack_cfg (x : Nibble) (b : Byte) (f : Option Bool) : (s.writeBack x b f).cfg = s.cfg := by
  rw [State.writeBack_eq]
@[simp] theorem State.writeBack_rnd (x : Nibble) (b : Byte) (f : Option Bool) : (s.writeBack x b f).rnd = s.rnd := by
  rw [State.writeBack_eq]
@[simp] theorem State.writeBack_draws (x : Nibble) (b : Byte) (f : Option Bool) : (s.writeBack x b f).draws = s.draws := by
  rw [State.writeBack_eq]

/-! ### `State.addToIndex` -/

/-- Everything `addToIndex` can do: it writes I and, on a wrap, VF (42_index_memory.md R141). -/
theorem State.addToIndex_eq (a : Byte) :
    s.addToIndex a = { s with v := (s.addToIndex a).v, index := (s.addToIndex a).index } := by
  unfold State.addToIndex
  split <;> rfl

@[simp] theorem State.addToIndex_pc (a : Byte) : (s.addToIndex a).pc = s.pc := by
  rw [State.addToIndex_eq]
@[simp] theorem State.addToIndex_stack (a : Byte) : (s.addToIndex a).stack = s.stack := by
  rw [State.addToIndex_eq]
@[simp] theorem State.addToIndex_dt (a : Byte) : (s.addToIndex a).dt = s.dt := by
  rw [State.addToIndex_eq]
@[simp] theorem State.addToIndex_st (a : Byte) : (s.addToIndex a).st = s.st := by
  rw [State.addToIndex_eq]
@[simp] theorem State.addToIndex_keys (a : Byte) : (s.addToIndex a).keys = s.keys := by
  rw [State.addToIndex_eq]
@[simp] theorem State.addToIndex_quirks (a : Byte) : (s.addToIndex a).quirks = s.quirks := by
  rw [State.addToIndex_eq]
@[simp] theorem State.addToIndex_mem (a : Byte) : (s.addToIndex a).mem = s.mem := by
  rw [State.addToIndex_eq]
@[simp] theorem State.addToIndex_display (a : Byte) : (s.addToIndex a).display = s.display := by
  rw [State.addToIndex_eq]
@[simp] theorem State.addToIndex_fault (a : Byte) : (s.addToIndex a).fault = s.fault := by
  rw [State.addToIndex_eq]
@[simp] theorem State.addToIndex_diag (a : Byte) : (s.addToIndex a).diag = s.diag := by
  rw [State.addToIndex_eq]
@[simp] theorem State.addToIndex_cfg (a : Byte) : (s.addToIndex a).cfg = s.cfg := by
  rw [State.addToIndex_eq]
@[simp] theorem State.addToIndex_rnd (a : Byte) : (s.addToIndex a).rnd = s.rnd := by
  rw [State.addToIndex_eq]
@[simp] theorem State.addToIndex_draws (a : Byte) : (s.addToIndex a).draws = s.draws := by
  rw [State.addToIndex_eq]

/-! ### `State.placeWord` -/

@[simp] theorem State.placeWord_v (w : Word) : (s.placeWord w).v = s.v := by
  unfold State.placeWord; split <;> rfl
@[simp] theorem State.placeWord_pc (w : Word) : (s.placeWord w).pc = s.pc := by
  unfold State.placeWord; split <;> rfl
@[simp] theorem State.placeWord_index (w : Word) : (s.placeWord w).index = s.index := by
  unfold State.placeWord; split <;> rfl
@[simp] theorem State.placeWord_stack (w : Word) : (s.placeWord w).stack = s.stack := by
  unfold State.placeWord; split <;> rfl
@[simp] theorem State.placeWord_dt (w : Word) : (s.placeWord w).dt = s.dt := by
  unfold State.placeWord; split <;> rfl
@[simp] theorem State.placeWord_st (w : Word) : (s.placeWord w).st = s.st := by
  unfold State.placeWord; split <;> rfl
@[simp] theorem State.placeWord_keys (w : Word) : (s.placeWord w).keys = s.keys := by
  unfold State.placeWord; split <;> rfl
@[simp] theorem State.placeWord_quirks (w : Word) : (s.placeWord w).quirks = s.quirks := by
  unfold State.placeWord; split <;> rfl
@[simp] theorem State.placeWord_display (w : Word) : (s.placeWord w).display = s.display := by
  unfold State.placeWord; split <;> rfl
@[simp] theorem State.placeWord_fault (w : Word) : (s.placeWord w).fault = s.fault := by
  unfold State.placeWord; split <;> rfl
@[simp] theorem State.placeWord_diag (w : Word) : (s.placeWord w).diag = s.diag := by
  unfold State.placeWord; split <;> rfl
@[simp] theorem State.placeWord_cfg (w : Word) : (s.placeWord w).cfg = s.cfg := by
  unfold State.placeWord; split <;> rfl
@[simp] theorem State.placeWord_rnd (w : Word) : (s.placeWord w).rnd = s.rnd := by
  unfold State.placeWord; split <;> rfl
@[simp] theorem State.placeWord_draws (w : Word) : (s.placeWord w).draws = s.draws := by
  unfold State.placeWord; split <;> rfl

/-! ### The halted check -/

theorem State.halted_eq_false : s.halted = false ↔ s.fault.cause = none := by simp [State.halted]

theorem State.halted_eq_true : s.halted = true ↔ s.fault.cause ≠ none := by simp [State.halted]

@[simp] theorem State.supplyRnd_halted (r : Byte) : (s.supplyRnd r).halted = s.halted := rfl

@[simp] theorem State.advance_halted : s.advance.halted = s.halted := rfl

end Sys2Proof.Machine
end

