-- ==== Sys2Proof/Laws/Ops.lean ====
section
/-! SUPPORT. What each shared operation over the state can do, said once: the translator, the guarded data access, the fetch. -/

namespace Sys2Proof.Machine

/-- The fault the translator raises for an access kind (20_memory.md R55). -/
theorem translate_eq (kind : AccessKind) (a : Nat) :
    translate kind a =
      if a < 4096 then .ok a
      else .error { cause := if kind = .fetch then .fetchOutOfRange else .dataOutOfRange, addr := BitVec.ofNat 16 a } := by
  unfold translate
  cases kind <;> rfl

/-- The whole range is in memory, or the fault carries the lowest address that is not (20_memory.md R57). -/
theorem translateRange_eq (kind : AccessKind) (base n : Nat) :
    translateRange kind base n =
      if n = 0 ∨ base + n ≤ 4096 then .ok ()
      else .error { cause := if kind = .fetch then .fetchOutOfRange else .dataOutOfRange,
                    addr := BitVec.ofNat 16 (max base 4096) } := by
  induction n with
  | zero => simp [translateRange]
  | succ n ih =>
    rw [translateRange, ih, translate_eq]
    by_cases h1 : n = 0 ∨ base + n ≤ 4096
    · by_cases h2 : base + n < 4096
      · have h3 : base + (n + 1) ≤ 4096 := by omega
        simp [h1, h2, h3]
      · have h3 : ¬ base + (n + 1) ≤ 4096 := by omega
        have h4 : max base 4096 = base + n := by omega
        simp [h1, h2, h3, h4]
    · have h3 : ¬ base + (n + 1) ≤ 4096 := by omega
      simp [h1, h3]

/-- Everything a guarded data access can do: the next state given, or the latched fault (20_memory.md R57). -/
theorem State.withDataRange_eq (s : State) (w : Word) (n : Nat) (t : State) :
    s.withDataRange w n t =
      .next (if n = 0 ∨ s.index.toNat + n ≤ 4096 then t
             else s.raise .dataOutOfRange w (BitVec.ofNat 16 (max s.index.toNat 4096))) := by
  unfold State.withDataRange
  rw [translateRange_eq]
  by_cases h : n = 0 ∨ s.index.toNat + n ≤ 4096
  · rw [if_pos h, if_pos h]
  · rw [if_neg h, if_neg h]
    rfl

/-- Everything the fetch can do: the big-endian word at `pc`, or the fault (20_memory.md R51, R56). -/
theorem State.fetch_eq (s : State) :
    s.fetch =
      if s.pc.toNat < 0x0FFF then .ok (joinBytes (s.mem.read s.pc.toNat) (s.mem.read (s.pc.toNat + 1)))
      else .error { cause := .fetchOutOfRange, addr := BitVec.ofNat 16 (max s.pc.toNat 4096) } := by
  unfold State.fetch
  rw [translateRange_eq]
  by_cases h : s.pc.toNat < 0x0FFF
  · have h2 : s.pc.toNat + 2 ≤ 4096 := by omega
    simp [h, h2]
  · have h2 : ¬ s.pc.toNat + 2 ≤ 4096 := by omega
    simp [h, h2]

@[simp] theorem State.supplyRnd_fetch (s : State) (r : Byte) : (s.supplyRnd r).fetch = s.fetch := rfl

/-- A word placed for the next fetch is the word fetched, when `pc` is in range. -/
theorem State.fetch_placeWord (s : State) (w : Word) (h : s.pc.toNat < 0x0FFF) : (s.placeWord w).fetch = .ok w := by
  rw [State.fetch_eq, State.placeWord_pc, if_pos h]
  have h2 : s.pc.toNat + 1 < memSize := by unfold memSize; omega
  simp [State.placeWord, h2, Memory.read_writeBytes]

/-- The stack is full only with a finite `STACK_DEPTH` (10_state.md R29). -/
theorem State.stackFull_eq_true (s : State) : s.stackFull = true ↔ ∃ d, s.cfg.stackDepth = some d ∧ d ≤ s.stack.length := by
  unfold State.stackFull
  cases s.cfg.stackDepth <;> simp

end Sys2Proof.Machine
end

