-- ==== Sys2Proof/Laws/Operands.lean ====
section
/-! SUPPORT. The laws of the registers, of the operand forms and of the flags. -/

namespace Sys2Proof.Machine

/-- A register after a register write (10_state.md R20: no register is hard-wired or aliased). -/
theorem State.getV_setV (s : State) (x z : Nibble) (b : Byte) : (s.setV x b).getV z = if z = x then b else s.getV z := by
  unfold State.getV State.setV
  by_cases h : z = x
  · subst h; simp
  · have h2 : x.toNat ≠ z.toNat := fun he => h (BitVec.eq_of_toNat_eq he.symm)
    simp [h, Vector.getElem_set_ne _ _ h2]

/-- A register read looks at the register file alone. -/
theorem State.getV_congr {s t : State} (h : t.v = s.v) (z : Nibble) : t.getV z = s.getV z := by
  unfold State.getV
  simp [h]

@[simp] theorem State.getV_advance (s : State) (z : Nibble) : s.advance.getV z = s.getV z := rfl

@[simp] theorem State.getV_supplyRnd (s : State) (r : Byte) (z : Nibble) : (s.supplyRnd r).getV z = s.getV z := rfl

/-- The registers after the writeback: the result in VX and the flag in VF, the later write winning when X = F (41_alu.md R123). -/
theorem State.getV_writeBack (s : State) (x z : Nibble) (b : Byte) (f : Option Bool) :
    (s.writeBack x b f).getV z =
      match f with
      | none => if z = x then b else s.getV z
      | some f =>
          match s.cfg.vfWriteOrder with
          | .flagLast => if z = vf then flagByte f else if z = x then b else s.getV z
          | .resultLast => if z = x then b else if z = vf then flagByte f else s.getV z := by
  unfold State.writeBack
  cases f with
  | none => exact State.getV_setV _ _ _ _
  | some f => cases s.cfg.vfWriteOrder <;> simp only [State.getV_setV]

/-- The registers after FX65's load (42_index_memory.md R145). -/
theorem State.getV_loadRegsUpTo (s : State) (x z : Nibble) :
    (s.loadRegsUpTo x).getV z = if z.toNat ≤ x.toNat then s.readAtIndex z.toNat else s.getV z := by
  unfold State.getV State.loadRegsUpTo
  simp

/-- The number of bytes FX55 stores. -/
@[simp] theorem State.length_regsUpTo (s : State) (x : Nibble) : (s.regsUpTo x).length = x.toNat + 1 := by
  unfold State.regsUpTo
  have := x.isLt
  simp; omega

/-- The bytes FX55 stores: byte k is Vk (42_index_memory.md R144). -/
theorem State.getD_regsUpTo (s : State) (x z : Nibble) (h : z.toNat ≤ x.toNat) (d : Byte) :
    (s.regsUpTo x).getD z.toNat d = s.getV z := by
  unfold State.regsUpTo State.getV
  have hz := z.isLt
  simp [List.getD_eq_getElem?_getD, Nat.lt_succ_of_le h, hz]

/-- I and the registers after FX1E (42_index_memory.md R141). -/
theorem State.index_addToIndex (s : State) (a : Byte) :
    (s.addToIndex a).index =
      if s.index.toNat + a.toNat > 0x0FFF then BitVec.ofNat 16 ((s.index.toNat + a.toNat) % 0x1000)
      else BitVec.ofNat 16 (s.index.toNat + a.toNat) := by
  unfold State.addToIndex
  split <;> rfl

theorem State.getV_addToIndex (s : State) (a : Byte) (z : Nibble) :
    (s.addToIndex a).getV z = if s.index.toNat + a.toNat > 0x0FFF ∧ z = vf then 0x01#8 else s.getV z := by
  unfold State.addToIndex
  split
  · rename_i h
    rw [State.getV_setV]
    by_cases hz : z = vf
    · simp [hz]; omega
    · simp [hz]; rfl
  · rename_i h
    simp [h]; rfl

/-- FX29's address where it fits in 16 bits (42_index_memory.md R142). -/
theorem toNat_glyphAddr {c : Config} {a : Byte} (h : c.fontBase + a.toNat * c.fontGlyphStride ≤ 0xFFFF) :
    (glyphAddr c a).toNat = c.fontBase + a.toNat * c.fontGlyphStride := by
  unfold glyphAddr
  rw [if_pos h, BitVec.toNat_ofNat, Nat.mod_eq_of_lt (by omega)]

/-- The zero-extended immediate has the same value (30_encoding.md R74). -/
@[simp] theorem toNat_immAddr (nnn : Addr12) : (immAddr nnn).toNat = nnn.toNat := by
  unfold immAddr
  have := nnn.isLt
  simp; omega

@[simp] theorem toNat_zextByte (b : Byte) : (zextByte b).toNat = b.toNat := by
  unfold zextByte
  have := b.isLt
  simp; omega

/-- FX0A's key: the lowest pressed one (44_keys_timers.md R184). -/
theorem lowestKey_eq_some {kb : Word} {k : Nat} :
    lowestKey kb = some k ↔ k < 16 ∧ kb.getLsbD k = true ∧ ∀ j, j < k → kb.getLsbD j = false := by
  unfold lowestKey
  rw [List.find?_range_eq_some]
  simp
  tauto

/-- FX0A finds no key exactly when KB is 0 (44_keys_timers.md R184). -/
theorem lowestKey_eq_none {kb : Word} : lowestKey kb = none ↔ kb = 0#16 := by
  unfold lowestKey
  rw [List.find?_range_eq_none]
  constructor
  · intro h
    ext i hi
    have := h i hi
    simpa [BitVec.getLsbD_eq_getElem hi] using this
  · rintro rfl i hi
    simp

end Sys2Proof.Machine
end

