-- ==== Sys2Proof/Laws/Step.lean ====
section
/-! SUPPORT. What one STEP can do, said once (30_encoding.md R70, 60_exceptions.md R208). -/

namespace Sys2Proof.Machine

/-- The four things a STEP can do, in the order of the checks (60_exceptions.md R208). -/
theorem stepWith_cases (r : Byte) (s : State) :
    (s.fault.cause ≠ none ∧ stepWith r s = .next s) ∨
    (s.fault.cause = none ∧ ¬ s.pc.toNat < 0x0FFF ∧
      stepWith r s =
        .next ((s.supplyRnd r).raise .fetchOutOfRange 0x0000#16 (BitVec.ofNat 16 (max s.pc.toNat 4096)))) ∨
    (s.fault.cause = none ∧ s.pc.toNat < 0x0FFF ∧ ∃ w, s.fetch = .ok w ∧
      ((∃ i, decode w = .ok i ∧ stepWith r s = exec i (s.supplyRnd r)) ∨
       (decode w = .error (.unrecognized w) ∧ stepWith r s = .next ((s.supplyRnd r).warn w)))) := by
  unfold stepWith
  by_cases hh : s.fault.cause = none
  · refine .inr ?_
    have hf : s.halted = false := (State.halted_eq_false s).mpr hh
    simp only [hf, Bool.false_eq_true, if_false]
    by_cases hp : s.pc.toNat < 0x0FFF
    · refine .inr ⟨hh, hp, joinBytes (s.mem.read s.pc.toNat) (s.mem.read (s.pc.toNat + 1)), ?_, ?_⟩
      · rw [State.fetch_eq, if_pos hp]
      · rw [State.fetch_eq, if_pos hp]
        cases hd : decode (joinBytes (s.mem.read s.pc.toNat) (s.mem.read (s.pc.toNat + 1))) with
        | ok i => exact .inl ⟨i, rfl, by simp [hd]⟩
        | error e =>
          obtain ⟨-, rfl⟩ := decode_eq_error.mp hd
          exact .inr ⟨rfl, by simp [hd]⟩
    · exact .inl ⟨hh, hp, by rw [State.fetch_eq, if_neg hp]⟩
  · exact .inl ⟨hh, by simp [(State.halted_eq_true s).mpr hh]⟩

/-- A step is a STEP with the next free byte. -/
theorem step_eq (s : State) : step s = stepWith (Config.randomByte s.draws) s := rfl

/-- A run of no steps. -/
theorem run_zero (s : State) : Sys2Proof.core.run 0 s = .next s := rfl

/-- A machine's run whose first step answers a next state goes on from it. -/
theorem core_run_succ (m : Host.Core) (k : Nat) {s t : m.State} (h : m.step s = .next t) : m.run (k + 1) s = m.run k t := by
  rw [Host.Core.run, h]

/-- The block's run, one step at a time. -/
theorem run_succ (k : Nat) {s t : State} (h : step s = .next t) : Sys2Proof.core.run (k + 1) s = Sys2Proof.core.run k t :=
  core_run_succ Sys2Proof.core k h

end Sys2Proof.Machine
end

