-- ==== Sys2Proof/Laws/Exec.lean ====
section
/-! SUPPORT. What one instruction can do, said once: it completes, and then the latch, `diag`, the keyboard, the quirks bit and the
model's own fields are as before, or it raises its one execution fault (60_exceptions.md R204, R208). -/

namespace Sys2Proof.Machine

/-- When an instruction raises its execution fault, with the fault and the address it records (60_exceptions.md R200, R208). -/
def RaisesWhen (i : Instr) (s : State) (c : Fault) (a : Word) : Prop :=
  match i with
  | .ret => c = .stackUnderflow ∧ a = 0#16 ∧ s.stack = []
  | .call _ => c = .stackOverflow ∧ a = 0#16 ∧ s.stackFull = true
  | .drw _ _ n =>
      c = .dataOutOfRange ∧ a = BitVec.ofNat 16 (max s.index.toNat 4096) ∧ 0 < n.toNat ∧ 4096 < s.index.toNat + n.toNat
  | .ldB _ => c = .dataOutOfRange ∧ a = BitVec.ofNat 16 (max s.index.toNat 4096) ∧ 4096 < s.index.toNat + 3
  | .stRegs x | .ldRegs x =>
      c = .dataOutOfRange ∧ a = BitVec.ofNat 16 (max s.index.toNat 4096) ∧ 4096 < s.index.toNat + (x.toNat + 1)
  | _ => False

/-- The two things an instruction can do. -/
def CompletesOrRaises (i : Instr) (s t : State) : Prop :=
  (t.fault = s.fault ∧ t.diag = s.diag ∧ t.cfg = s.cfg ∧ t.keys = s.keys ∧ t.quirks = s.quirks ∧ t.rnd = s.rnd ∧
    t.draws = s.draws) ∨
  ∃ c a, RaisesWhen i s c a ∧ t = s.raise c (encode i) a

theorem execRet_cases (s : State) : ∃ t, execRet s = .next t ∧ CompletesOrRaises .ret s t := by
  unfold execRet
  cases h : s.stack.getLast? with
  | none => exact ⟨_, rfl, .inr ⟨_, _, ⟨rfl, rfl, by simpa using h⟩, rfl⟩⟩
  | some a => exact ⟨_, rfl, .inl ⟨rfl, rfl, rfl, rfl, rfl, rfl, rfl⟩⟩

theorem execCall_cases (nnn : Addr12) (s : State) : ∃ t, execCall nnn s = .next t ∧ CompletesOrRaises (.call nnn) s t := by
  unfold execCall
  cases h : s.stackFull with
  | true => exact ⟨_, if_pos rfl, .inr ⟨_, _, ⟨rfl, rfl, h⟩, rfl⟩⟩
  | false => exact ⟨_, if_neg Bool.false_ne_true, .inl ⟨rfl, rfl, rfl, rfl, rfl, rfl, rfl⟩⟩

/-- The guarded data accesses complete with the state given or raise. -/
theorem withDataRange_cases (i : Instr) (s : State) (n : Nat) (t : State)
    (hr : ¬(n = 0 ∨ s.index.toNat + n ≤ 4096) →
      RaisesWhen i s .dataOutOfRange (BitVec.ofNat 16 (max s.index.toNat 4096)))
    (ht : CompletesOrRaises i s t) : ∃ u, s.withDataRange (encode i) n t = .next u ∧ CompletesOrRaises i s u := by
  rw [State.withDataRange_eq]
  refine ⟨_, rfl, ?_⟩
  by_cases h : n = 0 ∨ s.index.toNat + n ≤ 4096
  · rwa [if_pos h]
  · rw [if_neg h]
    exact .inr ⟨_, _, hr h, rfl⟩

theorem execDrw_cases (x y n : Nibble) (s : State) :
    ∃ t, execDrw x y n s = .next t ∧ CompletesOrRaises (.drw x y n) s t :=
  withDataRange_cases _ _ _ _ (fun h => ⟨rfl, rfl, by omega, by omega⟩) (.inl (by simp))

theorem execLdB_cases (x : Nibble) (s : State) : ∃ t, execLdB x s = .next t ∧ CompletesOrRaises (.ldB x) s t :=
  withDataRange_cases _ _ _ _ (fun h => ⟨rfl, rfl, by omega⟩) (.inl (by simp))

theorem execStRegs_cases (x : Nibble) (s : State) : ∃ t, execStRegs x s = .next t ∧ CompletesOrRaises (.stRegs x) s t :=
  withDataRange_cases _ _ _ _ (fun h => ⟨rfl, rfl, by omega⟩) (.inl (by simp))

theorem execLdRegs_cases (x : Nibble) (s : State) : ∃ t, execLdRegs x s = .next t ∧ CompletesOrRaises (.ldRegs x) s t :=
  withDataRange_cases _ _ _ _ (fun h => ⟨rfl, rfl, by omega⟩) (.inl (by simp))

theorem execLdVxK_cases (x : Nibble) (s : State) : ∃ t, execLdVxK x s = .next t ∧ CompletesOrRaises (.ldVxK x) s t := by
  unfold execLdVxK
  cases lowestKey s.keys with
  | none => exact ⟨_, rfl, .inl (by simp)⟩
  | some k => exact ⟨_, rfl, .inl (by simp)⟩

/-- Every instruction answers a next state, in which it has completed or raised its fault. -/
theorem exec_cases (i : Instr) (s : State) : ∃ t, exec i s = .next t ∧ CompletesOrRaises i s t := by
  cases i with
  | ret => exact execRet_cases s
  | call nnn => exact execCall_cases nnn s
  | drw x y n => exact execDrw_cases x y n s
  | ldB x => exact execLdB_cases x s
  | stRegs x => exact execStRegs_cases x s
  | ldRegs x => exact execLdRegs_cases x s
  | ldVxK x => exact execLdVxK_cases x s
  | cls => exact ⟨_, rfl, .inl (by simp)⟩
  | jp => exact ⟨_, rfl, .inl (by simp)⟩
  | seByte => exact ⟨_, rfl, .inl (by simp)⟩
  | sneByte => exact ⟨_, rfl, .inl (by simp)⟩
  | seReg => exact ⟨_, rfl, .inl (by simp)⟩
  | sneReg => exact ⟨_, rfl, .inl (by simp)⟩
  | skp => exact ⟨_, rfl, .inl (by simp)⟩
  | sknp => exact ⟨_, rfl, .inl (by simp)⟩
  | ldByte => exact ⟨_, rfl, .inl (by simp)⟩
  | addByte => exact ⟨_, rfl, .inl (by simp)⟩
  | ldReg => exact ⟨_, rfl, .inl (by simp)⟩
  | orReg => exact ⟨_, rfl, .inl (by simp)⟩
  | andReg => exact ⟨_, rfl, .inl (by simp)⟩
  | xorReg => exact ⟨_, rfl, .inl (by simp)⟩
  | addReg => exact ⟨_, rfl, .inl (by simp)⟩
  | sub => exact ⟨_, rfl, .inl (by simp)⟩
  | shr => exact ⟨_, rfl, .inl (by simp)⟩
  | subn => exact ⟨_, rfl, .inl (by simp)⟩
  | shl => exact ⟨_, rfl, .inl (by simp)⟩
  | ldI => exact ⟨_, rfl, .inl (by simp)⟩
  | jpV0 => exact ⟨_, rfl, .inl (by simp)⟩
  | rnd => exact ⟨_, rfl, .inl (by simp)⟩
  | ldVxDt => exact ⟨_, rfl, .inl (by simp)⟩
  | ldDtVx => exact ⟨_, rfl, .inl (by simp)⟩
  | ldStVx => exact ⟨_, rfl, .inl (by simp)⟩
  | addI => exact ⟨_, rfl, .inl (by simp)⟩
  | ldF => exact ⟨_, rfl, .inl (by simp)⟩

end Sys2Proof.Machine
end

