-- ==== Sys2Proof/Laws/PerInstr.lean ====
section
/-! SUPPORT. Statements about every instruction as syntax, one lemma per constructor. -/

namespace Sys2Proof.Laws.FieldsFit

/-- The instruction is well formed: its operands are its format's fields and fit them (30_encoding.md R72, R73). -/
def Statement (i : Sys2Proof.Instr) : Prop := Sys2Proof.WellFormed i

/-- A register operand fits its field. -/
theorem fits4 (x : Sys2Proof.Nibble) : x.toNat < 16 := x.isLt

/-- An 8-bit immediate fits its field. -/
theorem fits8 (x : Sys2Proof.Byte) : x.toNat < 256 := x.isLt

/-- A 12-bit immediate fits its field. -/
theorem fits12 (x : Sys2Proof.Addr12) : x.toNat < 4096 := x.isLt

theorem cls : Statement (.cls) := by
  simp [Statement, Sys2Proof.WellFormed, Sys2Proof.operandsFit, Sys2Proof.Instr.format, Sys2Proof.Instr.operands,
    Sys2Proof.Format.uses, Sys2Proof.Field.width]

theorem ret : Statement (.ret) := by
  simp [Statement, Sys2Proof.WellFormed, Sys2Proof.operandsFit, Sys2Proof.Instr.format, Sys2Proof.Instr.operands,
    Sys2Proof.Format.uses, Sys2Proof.Field.width]

theorem jp (nnn : Sys2Proof.Addr12) : Statement (.jp nnn) := by
  simp [Statement, Sys2Proof.WellFormed, Sys2Proof.operandsFit, Sys2Proof.Instr.format, Sys2Proof.Instr.operands,
    Sys2Proof.Format.uses, Sys2Proof.Field.width, fits12 nnn]

theorem call (nnn : Sys2Proof.Addr12) : Statement (.call nnn) := by
  simp [Statement, Sys2Proof.WellFormed, Sys2Proof.operandsFit, Sys2Proof.Instr.format, Sys2Proof.Instr.operands,
    Sys2Proof.Format.uses, Sys2Proof.Field.width, fits12 nnn]

theorem seByte (x : Sys2Proof.Nibble) (nn : Sys2Proof.Byte) : Statement (.seByte x nn) := by
  simp [Statement, Sys2Proof.WellFormed, Sys2Proof.operandsFit, Sys2Proof.Instr.format, Sys2Proof.Instr.operands,
    Sys2Proof.Format.uses, Sys2Proof.Field.width, fits4 x, fits8 nn]

theorem sneByte (x : Sys2Proof.Nibble) (nn : Sys2Proof.Byte) : Statement (.sneByte x nn) := by
  simp [Statement, Sys2Proof.WellFormed, Sys2Proof.operandsFit, Sys2Proof.Instr.format, Sys2Proof.Instr.operands,
    Sys2Proof.Format.uses, Sys2Proof.Field.width, fits4 x, fits8 nn]

theorem seReg (x : Sys2Proof.Nibble) (y : Sys2Proof.Nibble) : Statement (.seReg x y) := by
  simp [Statement, Sys2Proof.WellFormed, Sys2Proof.operandsFit, Sys2Proof.Instr.format, Sys2Proof.Instr.operands,
    Sys2Proof.Format.uses, Sys2Proof.Field.width, fits4 x, fits4 y]

theorem ldByte (x : Sys2Proof.Nibble) (nn : Sys2Proof.Byte) : Statement (.ldByte x nn) := by
  simp [Statement, Sys2Proof.WellFormed, Sys2Proof.operandsFit, Sys2Proof.Instr.format, Sys2Proof.Instr.operands,
    Sys2Proof.Format.uses, Sys2Proof.Field.width, fits4 x, fits8 nn]

theorem addByte (x : Sys2Proof.Nibble) (nn : Sys2Proof.Byte) : Statement (.addByte x nn) := by
  simp [Statement, Sys2Proof.WellFormed, Sys2Proof.operandsFit, Sys2Proof.Instr.format, Sys2Proof.Instr.operands,
    Sys2Proof.Format.uses, Sys2Proof.Field.width, fits4 x, fits8 nn]

theorem ldReg (x : Sys2Proof.Nibble) (y : Sys2Proof.Nibble) : Statement (.ldReg x y) := by
  simp [Statement, Sys2Proof.WellFormed, Sys2Proof.operandsFit, Sys2Proof.Instr.format, Sys2Proof.Instr.operands,
    Sys2Proof.Format.uses, Sys2Proof.Field.width, fits4 x, fits4 y]

theorem orReg (x : Sys2Proof.Nibble) (y : Sys2Proof.Nibble) : Statement (.orReg x y) := by
  simp [Statement, Sys2Proof.WellFormed, Sys2Proof.operandsFit, Sys2Proof.Instr.format, Sys2Proof.Instr.operands,
    Sys2Proof.Format.uses, Sys2Proof.Field.width, fits4 x, fits4 y]

theorem andReg (x : Sys2Proof.Nibble) (y : Sys2Proof.Nibble) : Statement (.andReg x y) := by
  simp [Statement, Sys2Proof.WellFormed, Sys2Proof.operandsFit, Sys2Proof.Instr.format, Sys2Proof.Instr.operands,
    Sys2Proof.Format.uses, Sys2Proof.Field.width, fits4 x, fits4 y]

theorem xorReg (x : Sys2Proof.Nibble) (y : Sys2Proof.Nibble) : Statement (.xorReg x y) := by
  simp [Statement, Sys2Proof.WellFormed, Sys2Proof.operandsFit, Sys2Proof.Instr.format, Sys2Proof.Instr.operands,
    Sys2Proof.Format.uses, Sys2Proof.Field.width, fits4 x, fits4 y]

theorem addReg (x : Sys2Proof.Nibble) (y : Sys2Proof.Nibble) : Statement (.addReg x y) := by
  simp [Statement, Sys2Proof.WellFormed, Sys2Proof.operandsFit, Sys2Proof.Instr.format, Sys2Proof.Instr.operands,
    Sys2Proof.Format.uses, Sys2Proof.Field.width, fits4 x, fits4 y]

theorem sub (x : Sys2Proof.Nibble) (y : Sys2Proof.Nibble) : Statement (.sub x y) := by
  simp [Statement, Sys2Proof.WellFormed, Sys2Proof.operandsFit, Sys2Proof.Instr.format, Sys2Proof.Instr.operands,
    Sys2Proof.Format.uses, Sys2Proof.Field.width, fits4 x, fits4 y]

theorem shr (x : Sys2Proof.Nibble) (y : Sys2Proof.Nibble) : Statement (.shr x y) := by
  simp [Statement, Sys2Proof.WellFormed, Sys2Proof.operandsFit, Sys2Proof.Instr.format, Sys2Proof.Instr.operands,
    Sys2Proof.Format.uses, Sys2Proof.Field.width, fits4 x, fits4 y]

theorem subn (x : Sys2Proof.Nibble) (y : Sys2Proof.Nibble) : Statement (.subn x y) := by
  simp [Statement, Sys2Proof.WellFormed, Sys2Proof.operandsFit, Sys2Proof.Instr.format, Sys2Proof.Instr.operands,
    Sys2Proof.Format.uses, Sys2Proof.Field.width, fits4 x, fits4 y]

theorem shl (x : Sys2Proof.Nibble) (y : Sys2Proof.Nibble) : Statement (.shl x y) := by
  simp [Statement, Sys2Proof.WellFormed, Sys2Proof.operandsFit, Sys2Proof.Instr.format, Sys2Proof.Instr.operands,
    Sys2Proof.Format.uses, Sys2Proof.Field.width, fits4 x, fits4 y]

theorem sneReg (x : Sys2Proof.Nibble) (y : Sys2Proof.Nibble) : Statement (.sneReg x y) := by
  simp [Statement, Sys2Proof.WellFormed, Sys2Proof.operandsFit, Sys2Proof.Instr.format, Sys2Proof.Instr.operands,
    Sys2Proof.Format.uses, Sys2Proof.Field.width, fits4 x, fits4 y]

theorem ldI (nnn : Sys2Proof.Addr12) : Statement (.ldI nnn) := by
  simp [Statement, Sys2Proof.WellFormed, Sys2Proof.operandsFit, Sys2Proof.Instr.format, Sys2Proof.Instr.operands,
    Sys2Proof.Format.uses, Sys2Proof.Field.width, fits12 nnn]

theorem jpV0 (nnn : Sys2Proof.Addr12) : Statement (.jpV0 nnn) := by
  simp [Statement, Sys2Proof.WellFormed, Sys2Proof.operandsFit, Sys2Proof.Instr.format, Sys2Proof.Instr.operands,
    Sys2Proof.Format.uses, Sys2Proof.Field.width, fits12 nnn]

theorem rnd (x : Sys2Proof.Nibble) (nn : Sys2Proof.Byte) : Statement (.rnd x nn) := by
  simp [Statement, Sys2Proof.WellFormed, Sys2Proof.operandsFit, Sys2Proof.Instr.format, Sys2Proof.Instr.operands,
    Sys2Proof.Format.uses, Sys2Proof.Field.width, fits4 x, fits8 nn]

theorem drw (x : Sys2Proof.Nibble) (y : Sys2Proof.Nibble) (n : Sys2Proof.Nibble) : Statement (.drw x y n) := by
  simp [Statement, Sys2Proof.WellFormed, Sys2Proof.operandsFit, Sys2Proof.Instr.format, Sys2Proof.Instr.operands,
    Sys2Proof.Format.uses, Sys2Proof.Field.width, fits4 x, fits4 y, fits4 n]

theorem skp (x : Sys2Proof.Nibble) : Statement (.skp x) := by
  simp [Statement, Sys2Proof.WellFormed, Sys2Proof.operandsFit, Sys2Proof.Instr.format, Sys2Proof.Instr.operands,
    Sys2Proof.Format.uses, Sys2Proof.Field.width, fits4 x]

theorem sknp (x : Sys2Proof.Nibble) : Statement (.sknp x) := by
  simp [Statement, Sys2Proof.WellFormed, Sys2Proof.operandsFit, Sys2Proof.Instr.format, Sys2Proof.Instr.operands,
    Sys2Proof.Format.uses, Sys2Proof.Field.width, fits4 x]

theorem ldVxDt (x : Sys2Proof.Nibble) : Statement (.ldVxDt x) := by
  simp [Statement, Sys2Proof.WellFormed, Sys2Proof.operandsFit, Sys2Proof.Instr.format, Sys2Proof.Instr.operands,
    Sys2Proof.Format.uses, Sys2Proof.Field.width, fits4 x]

theorem ldVxK (x : Sys2Proof.Nibble) : Statement (.ldVxK x) := by
  simp [Statement, Sys2Proof.WellFormed, Sys2Proof.operandsFit, Sys2Proof.Instr.format, Sys2Proof.Instr.operands,
    Sys2Proof.Format.uses, Sys2Proof.Field.width, fits4 x]

theorem ldDtVx (x : Sys2Proof.Nibble) : Statement (.ldDtVx x) := by
  simp [Statement, Sys2Proof.WellFormed, Sys2Proof.operandsFit, Sys2Proof.Instr.format, Sys2Proof.Instr.operands,
    Sys2Proof.Format.uses, Sys2Proof.Field.width, fits4 x]

theorem ldStVx (x : Sys2Proof.Nibble) : Statement (.ldStVx x) := by
  simp [Statement, Sys2Proof.WellFormed, Sys2Proof.operandsFit, Sys2Proof.Instr.format, Sys2Proof.Instr.operands,
    Sys2Proof.Format.uses, Sys2Proof.Field.width, fits4 x]

theorem addI (x : Sys2Proof.Nibble) : Statement (.addI x) := by
  simp [Statement, Sys2Proof.WellFormed, Sys2Proof.operandsFit, Sys2Proof.Instr.format, Sys2Proof.Instr.operands,
    Sys2Proof.Format.uses, Sys2Proof.Field.width, fits4 x]

theorem ldF (x : Sys2Proof.Nibble) : Statement (.ldF x) := by
  simp [Statement, Sys2Proof.WellFormed, Sys2Proof.operandsFit, Sys2Proof.Instr.format, Sys2Proof.Instr.operands,
    Sys2Proof.Format.uses, Sys2Proof.Field.width, fits4 x]

theorem ldB (x : Sys2Proof.Nibble) : Statement (.ldB x) := by
  simp [Statement, Sys2Proof.WellFormed, Sys2Proof.operandsFit, Sys2Proof.Instr.format, Sys2Proof.Instr.operands,
    Sys2Proof.Format.uses, Sys2Proof.Field.width, fits4 x]

theorem stRegs (x : Sys2Proof.Nibble) : Statement (.stRegs x) := by
  simp [Statement, Sys2Proof.WellFormed, Sys2Proof.operandsFit, Sys2Proof.Instr.format, Sys2Proof.Instr.operands,
    Sys2Proof.Format.uses, Sys2Proof.Field.width, fits4 x]

theorem ldRegs (x : Sys2Proof.Nibble) : Statement (.ldRegs x) := by
  simp [Statement, Sys2Proof.WellFormed, Sys2Proof.operandsFit, Sys2Proof.Instr.format, Sys2Proof.Instr.operands,
    Sys2Proof.Format.uses, Sys2Proof.Field.width, fits4 x]

end Sys2Proof.Laws.FieldsFit

namespace Sys2Proof.Laws

/-- Every instruction is well formed: a field's type is its width. -/
theorem wellFormed (i : Sys2Proof.Instr) : Sys2Proof.WellFormed i :=
  match i with
  | .cls => FieldsFit.cls
  | .ret => FieldsFit.ret
  | .jp _ => FieldsFit.jp _
  | .call _ => FieldsFit.call _
  | .seByte _ _ => FieldsFit.seByte _ _
  | .sneByte _ _ => FieldsFit.sneByte _ _
  | .seReg _ _ => FieldsFit.seReg _ _
  | .ldByte _ _ => FieldsFit.ldByte _ _
  | .addByte _ _ => FieldsFit.addByte _ _
  | .ldReg _ _ => FieldsFit.ldReg _ _
  | .orReg _ _ => FieldsFit.orReg _ _
  | .andReg _ _ => FieldsFit.andReg _ _
  | .xorReg _ _ => FieldsFit.xorReg _ _
  | .addReg _ _ => FieldsFit.addReg _ _
  | .sub _ _ => FieldsFit.sub _ _
  | .shr _ _ => FieldsFit.shr _ _
  | .subn _ _ => FieldsFit.subn _ _
  | .shl _ _ => FieldsFit.shl _ _
  | .sneReg _ _ => FieldsFit.sneReg _ _
  | .ldI _ => FieldsFit.ldI _
  | .jpV0 _ => FieldsFit.jpV0 _
  | .rnd _ _ => FieldsFit.rnd _ _
  | .drw _ _ _ => FieldsFit.drw _ _ _
  | .skp _ => FieldsFit.skp _
  | .sknp _ => FieldsFit.sknp _
  | .ldVxDt _ => FieldsFit.ldVxDt _
  | .ldVxK _ => FieldsFit.ldVxK _
  | .ldDtVx _ => FieldsFit.ldDtVx _
  | .ldStVx _ => FieldsFit.ldStVx _
  | .addI _ => FieldsFit.addI _
  | .ldF _ => FieldsFit.ldF _
  | .ldB _ => FieldsFit.ldB _
  | .stRegs _ => FieldsFit.stRegs _
  | .ldRegs _ => FieldsFit.ldRegs _

end Sys2Proof.Laws
end

