-- ==== Sys2Proof/Tests/Slice0.lean ====
section
/-! SUPPORT. The model's own tests: the well-formedness smoke, one word of every row of the opcode table, one or two steps of every
instruction with the expected values of 95_test_vectors.md, and a witness for the hypotheses of every obligation that has some. -/

namespace Sys2Proof.Tests

-- One proof after the other: the kernel evaluations below would else all wait at once, each on a thread of its own.
set_option Elab.async false

open Sys2Proof Sys2Proof.Machine

/-! ### Well-formedness: the check refuses an ill-formed term for each thing it checks -/

theorem test_wf_address_too_big : operandsFit .nnn [(.nnn, 0x1000)] = false ∧ operandsFit .nnn [(.nnn, 0xFFF)] = true := by decide
theorem test_wf_register_x_too_big : operandsFit .x [(.x, 16)] = false ∧ operandsFit .x [(.x, 15)] = true := by decide
theorem test_wf_register_y_too_big : operandsFit .xy0 [(.x, 0), (.y, 16)] = false ∧ operandsFit .xy0 [(.x, 0), (.y, 15)] = true := by
  decide
theorem test_wf_byte_too_big : operandsFit .xnn [(.x, 0), (.nn, 256)] = false ∧ operandsFit .xnn [(.x, 0), (.nn, 255)] = true := by
  decide
theorem test_wf_nibble_too_big :
    operandsFit .xyn [(.x, 0), (.y, 0), (.n, 16)] = false ∧ operandsFit .xyn [(.x, 0), (.y, 0), (.n, 15)] = true := by decide
theorem test_wf_operand_missing : operandsFit .xyn [(.x, 0), (.y, 0)] = false := by decide
theorem test_wf_operand_surplus : operandsFit .fixed [(.x, 0)] = false ∧ operandsFit .fixed [] = true := by decide
theorem test_wf_operand_of_another_field : operandsFit .xnn [(.x, 0), (.nnn, 5)] = false := by decide

/-! ### Decoding: a word of every row, its fields placed by hand from 30_encoding.md R72, R73 and R75 -/

theorem test_decode_control :
    decode 0x00EE#16 = .ok .ret ∧ decode 0x1FED#16 = .ok (.jp 0xFED#12) ∧ decode 0x2ABC#16 = .ok (.call 0xABC#12) ∧
      decode 0x3A5C#16 = .ok (.seByte 0xA#4 0x5C#8) ∧ decode 0x4A5C#16 = .ok (.sneByte 0xA#4 0x5C#8) ∧
      decode 0x5AB0#16 = .ok (.seReg 0xA#4 0xB#4) ∧ decode 0x9AB0#16 = .ok (.sneReg 0xA#4 0xB#4) ∧
      decode 0xBABC#16 = .ok (.jpV0 0xABC#12) := by decide
theorem test_decode_alu :
    decode 0x6A5C#16 = .ok (.ldByte 0xA#4 0x5C#8) ∧ decode 0x7A5C#16 = .ok (.addByte 0xA#4 0x5C#8) ∧
      decode 0x8AB0#16 = .ok (.ldReg 0xA#4 0xB#4) ∧ decode 0x8AB1#16 = .ok (.orReg 0xA#4 0xB#4) ∧
      decode 0x8AB2#16 = .ok (.andReg 0xA#4 0xB#4) ∧ decode 0x8AB3#16 = .ok (.xorReg 0xA#4 0xB#4) ∧
      decode 0x8AB4#16 = .ok (.addReg 0xA#4 0xB#4) ∧ decode 0x8AB5#16 = .ok (.sub 0xA#4 0xB#4) ∧
      decode 0x8AB6#16 = .ok (.shr 0xA#4 0xB#4) ∧ decode 0x8AB7#16 = .ok (.subn 0xA#4 0xB#4) ∧
      decode 0x8ABE#16 = .ok (.shl 0xA#4 0xB#4) ∧ decode 0xCA5C#16 = .ok (.rnd 0xA#4 0x5C#8) := by decide
theorem test_decode_index_memory :
    decode 0xA123#16 = .ok (.ldI 0x123#12) ∧ decode 0xFA1E#16 = .ok (.addI 0xA#4) ∧ decode 0xFA29#16 = .ok (.ldF 0xA#4) ∧
      decode 0xFA33#16 = .ok (.ldB 0xA#4) ∧ decode 0xFA55#16 = .ok (.stRegs 0xA#4) ∧ decode 0xFA65#16 = .ok (.ldRegs 0xA#4) := by
  decide
theorem test_decode_display : decode 0x00E0#16 = .ok .cls ∧ decode 0xDAB7#16 = .ok (.drw 0xA#4 0xB#4 0x7#4) := by decide
theorem test_decode_keys_timers :
    decode 0xEA9E#16 = .ok (.skp 0xA#4) ∧ decode 0xEAA1#16 = .ok (.sknp 0xA#4) ∧ decode 0xFA07#16 = .ok (.ldVxDt 0xA#4) ∧
      decode 0xFA0A#16 = .ok (.ldVxK 0xA#4) ∧ decode 0xFA15#16 = .ok (.ldDtVx 0xA#4) ∧
      decode 0xFA18#16 = .ok (.ldStVx 0xA#4) := by decide

/-- V-DE-1 to V-DE-7, and zero memory (V-RS-2): words that are no opcode. -/
theorem test_decode_unrecognised :
    [0x5AB1#16, 0x0123#16, 0x00E1#16, 0x8128#16, 0xE19F#16, 0xF1FF#16, 0x9121#16, 0x0000#16].map decode =
      [0x5AB1#16, 0x0123#16, 0x00E1#16, 0x8128#16, 0xE19F#16, 0xF1FF#16, 0x9121#16, 0x0000#16].map
        (fun w => .error (.unrecognized w)) := by decide

/-- The bytes of an instruction and the bytes after it; too few bytes. -/
theorem test_decode_bytes :
    decodeBytes [0x12#8, 0x34#8, 0x60#8] = .ok (.jp 0x234#12, [0x60#8]) ∧ decodeBytes [0x12#8] = .error .truncated ∧
      encodeBytes (.jp 0x234#12) = [0x12#8, 0x34#8] ∧ decodeTableWord 16 0xDAB7 = some (.drw 0xA#4 0xB#4 0x7#4) := by decide

/-! ### One step -/

/-- A small state: `pc = 0x0200`, everything zero, memory empty, the default parameters. -/
def blank : State :=
  { State.resetWith Config.default with mem := [] }

/-- The blank state with registers and memory bytes set. -/
def withRegs (vs : List (Nibble × Byte)) (s : State) : State := vs.foldl (fun s p => s.setV p.1 p.2) s

/-- Bytes stored from an address. -/
def withBytes (base : Nat) (bs : List Byte) (s : State) : State := { s with mem := s.mem.writeBytes base bs }

/-- Lit cells of the display. -/
def withLit (cells : List (Nat × Nat)) (s : State) : State :=
  { s with display := cells.foldl (fun d c => d.setCell c.1 c.2 true) s.display }

/-- One `STEP(r)` of the word `w` placed at `pc`, and what is looked at afterwards. -/
def look {α : Type} (w : Word) (s : State) (f : State → α) (r : Byte := 0x00#8) : Option α :=
  match stepWith r (s.placeWord w) with
  | .next t => some (f t)
  | _ => none

/-- The lit cells among the listed ones. -/
def litOf (t : State) (cells : List (Nat × Nat)) : List Bool := cells.map (fun c => t.display.cell c.1 c.2)

/-- How many cells are lit. -/
def litCount (t : State) : Nat := (t.display.toList.map (fun row => row.toList.count true)).sum

/-- V-CF-2. -/
theorem test_ret_pops : look 0x00EE#16 { blank with stack := [0x0204#16] } (fun t => (t.pc, t.stack)) = some (0x0204#16, []) := by
  decide +kernel
/-- V-CF-1. -/
theorem test_ret_underflow :
    look 0x00EE#16 blank (fun t => (t.pc, t.stack, t.fault, t.faultCode)) =
      some (0x0200#16, [], { cause := some .stackUnderflow, pc := 0x0200#16, opcode := 0x00EE#16, addr := 0#16 }, 1#3) := by
  decide +kernel
/-- V-CF-8. -/
theorem test_jp : look 0x1FFF#16 blank (fun t => (t.pc, t.stack)) = some (0x0FFF#16, []) := by decide +kernel
/-- V-CF-6. -/
theorem test_call : look 0x2300#16 { blank with pc := 0x0FFE#16 } (fun t => (t.pc, t.stack)) = some (0x0300#16, [0x1000#16]) := by
  decide +kernel
/-- V-CF-5. -/
theorem test_call_overflow :
    look 0x2500#16
        { blank with
          pc := 0x0400#16
          stack := [0x0202#16, 0x0302#16]
          cfg := { Config.default with stackDepth := some 2 } }
        (fun t => (t.pc, t.stack, t.fault)) =
      some (0x0400#16, [0x0202#16, 0x0302#16],
        { cause := some .stackOverflow, pc := 0x0400#16, opcode := 0x2500#16, addr := 0#16 }) := by decide +kernel
/-- V-CF-9, V-CF-10. -/
theorem test_se_byte :
    look 0x3310#16 (withRegs [(3, 0x10)] blank) State.pc = some 0x0204#16 ∧
      look 0x3310#16 (withRegs [(3, 0x11)] blank) State.pc = some 0x0202#16 := by decide +kernel
/-- V-CF-11, V-CF-12. -/
theorem test_sne_byte :
    look 0x4310#16 (withRegs [(3, 0x10)] blank) State.pc = some 0x0202#16 ∧
      look 0x4310#16 (withRegs [(3, 0x11)] blank) State.pc = some 0x0204#16 := by decide +kernel
/-- V-CF-13, and the same registers unequal. -/
theorem test_se_reg :
    look 0x5120#16 (withRegs [(1, 7), (2, 7)] blank) State.pc = some 0x0204#16 ∧
      look 0x5120#16 (withRegs [(1, 7), (2, 8)] blank) State.pc = some 0x0202#16 := by decide +kernel
/-- V-CF-15, V-CF-16. -/
theorem test_sne_reg :
    look 0x9120#16 (withRegs [(1, 7), (2, 8)] blank) State.pc = some 0x0204#16 ∧
      look 0x9110#16 (withRegs [(1, 7)] blank) State.pc = some 0x0202#16 := by decide +kernel
/-- V-CF-19, V-CF-20. -/
theorem test_jp_v0 :
    look 0xB2F0#16 (withRegs [(0, 4), (2, 0x10)] blank) State.pc = some 0x02F4#16 ∧
      look 0xB2F0#16 (withRegs [(0, 4), (2, 0x10)] { blank with quirks := true }) State.pc = some 0x0300#16 := by decide +kernel
/-- V-CF-21. -/
theorem test_jp_v0_no_wrap : look 0xBFFF#16 (withRegs [(0, 0xFF)] blank) State.pc = some 0x10FE#16 := by decide +kernel

/-- V-AL-1, V-AL-2. -/
theorem test_ld_byte :
    look 0x6A5C#16 blank (fun t => t.getV 0xA) = some 0x5C#8 ∧ look 0x6FAA#16 blank (fun t => t.getV 0xF) = some 0xAA#8 := by
  decide +kernel
/-- V-AL-3. -/
theorem test_add_byte_wraps_without_flag :
    look 0x7101#16 (withRegs [(1, 0xFF)] blank) (fun t => (t.getV 1, t.getV 0xF)) = some (0x00#8, 0x00#8) := by decide +kernel
/-- V-AL-5. -/
theorem test_ld_reg : look 0x8120#16 (withRegs [(2, 0x33)] blank) (fun t => (t.getV 1, t.getV 2)) = some (0x33#8, 0x33#8) := by
  decide +kernel
/-- V-AL-6. -/
theorem test_or :
    look 0x8121#16 (withRegs [(1, 0x0F), (2, 0xF0), (0xF, 7)] blank) (fun t => (t.getV 1, t.getV 0xF)) =
      some (0xFF#8, 0x07#8) := by decide +kernel
/-- V-AL-7. -/
theorem test_and : look 0x8122#16 (withRegs [(1, 0x3C), (2, 0x0F)] blank) (fun t => t.getV 1) = some 0x0C#8 := by decide +kernel
/-- V-AL-8. -/
theorem test_xor : look 0x8123#16 (withRegs [(1, 0x3C), (2, 0x0F)] blank) (fun t => t.getV 1) = some 0x33#8 := by decide +kernel
/-- W1, its first and third rows. -/
theorem test_add_reg :
    look 0x8124#16 (withRegs [(1, 0xC8), (2, 0x64)] blank) (fun t => (t.getV 1, t.getV 0xF)) = some (0x2C#8, 0x01#8) ∧
      look 0x8124#16 (withRegs [(1, 0x10), (2, 0x20), (0xF, 0x55)] blank) (fun t => (t.getV 1, t.getV 0xF)) =
        some (0x30#8, 0x55#8) := by decide +kernel
/-- The parameters with the other value of each mode. -/
def reference : Config :=
  { Config.default with borrowFlagMode := .reference, vfWriteOrder := .resultLast, keyTestMode := .reference }
/-- V-AL-13. -/
theorem test_add_reg_alias :
    look 0x8F24#16 (withRegs [(0xF, 0xF0), (2, 0x20)] blank) (fun t => t.getV 0xF) = some 0x01#8 ∧
      look 0x8F24#16 (withRegs [(0xF, 0xF0), (2, 0x20)] { blank with cfg := reference }) (fun t => t.getV 0xF) = some 0x10#8 := by
  decide +kernel
/-- V-AL-16, V-AL-18. -/
theorem test_sub :
    look 0x8125#16 (withRegs [(1, 0x0A), (2, 0x03)] blank) (fun t => (t.getV 1, t.getV 0xF)) = some (0x07#8, 0x01#8) ∧
      look 0x8125#16 (withRegs [(1, 0x42), (2, 0x42)] blank) (fun t => (t.getV 1, t.getV 0xF)) = some (0x00#8, 0x01#8) := by
  decide +kernel
/-- V-AL-17. -/
theorem test_sub_borrow :
    look 0x8125#16 (withRegs [(2, 0x01)] blank) (fun t => (t.getV 1, t.getV 0xF)) = some (0xFF#8, 0x00#8) ∧
      look 0x8125#16 (withRegs [(2, 0x01)] { blank with cfg := reference }) (fun t => (t.getV 1, t.getV 0xF)) =
        some (0xFF#8, 0x01#8) := by decide +kernel
/-- V-AL-22, V-AL-23. -/
theorem test_shr :
    look 0x8126#16 (withRegs [(2, 0x05)] blank) (fun t => (t.getV 1, t.getV 0xF)) = some (0x02#8, 0x01#8) ∧
      look 0x8126#16 (withRegs [(2, 0x05)] { blank with quirks := true }) (fun t => (t.getV 1, t.getV 0xF)) =
        some (0x00#8, 0x00#8) := by decide +kernel
/-- V-AL-27. -/
theorem test_shr_alias :
    look 0x8F26#16 (withRegs [(2, 0x02)] blank) (fun t => t.getV 0xF) = some 0x00#8 ∧
      look 0x8F26#16 (withRegs [(2, 0x02)] { blank with cfg := reference }) (fun t => t.getV 0xF) = some 0x01#8 := by decide +kernel
/-- V-AL-20, V-AL-21. -/
theorem test_subn :
    look 0x8127#16 (withRegs [(1, 0x03), (2, 0x0A)] blank) (fun t => (t.getV 1, t.getV 0xF)) = some (0x07#8, 0x01#8) ∧
      look 0x8127#16 (withRegs [(1, 0x05), (2, 0x03)] blank) (fun t => (t.getV 1, t.getV 0xF)) = some (0xFE#8, 0x00#8) := by
  decide +kernel
/-- V-AL-28, V-AL-29. -/
theorem test_shl :
    look 0x812E#16 (withRegs [(2, 0x81)] blank) (fun t => (t.getV 1, t.getV 0xF)) = some (0x02#8, 0x01#8) ∧
      look 0x812E#16 (withRegs [(1, 0x81)] { blank with quirks := true }) (fun t => (t.getV 1, t.getV 0xF)) =
        some (0x02#8, 0x01#8) := by decide +kernel
/-- V-AL-32. -/
theorem test_shl_alias :
    look 0x8F2E#16 (withRegs [(2, 0xC0)] blank) (fun t => t.getV 0xF) = some 0x01#8 ∧
      look 0x8F2E#16 (withRegs [(2, 0xC0)] { blank with cfg := reference }) (fun t => t.getV 0xF) = some 0x80#8 := by decide +kernel
/-- V-AL-33, V-AL-35. -/
theorem test_rnd :
    look 0xC30F#16 blank (fun t => t.getV 3) 0xA7#8 = some 0x07#8 ∧ look 0xC3FF#16 blank (fun t => t.getV 3) 0x5E#8 = some 0x5E#8 := by
  decide +kernel

/-- V-IM-2. -/
theorem test_ld_i : look 0xAFFF#16 blank State.index = some 0x0FFF#16 := by decide +kernel
/-- V-IM-5, V-IM-4. -/
theorem test_add_i :
    look 0xF51E#16 (withRegs [(5, 1)] { blank with index := 0x0FFF#16 }) (fun t => (t.index, t.getV 0xF)) =
        some (0x0000#16, 0x01#8) ∧
      look 0xF51E#16 (withRegs [(5, 1), (0xF, 7)] { blank with index := 0x0FFE#16 }) (fun t => (t.index, t.getV 0xF)) =
        some (0x0FFF#16, 0x07#8) := by decide +kernel
/-- V-IM-6. -/
theorem test_add_i_of_vf :
    look 0xFF1E#16 (withRegs [(0xF, 2)] { blank with index := 0x0300#16 }) (fun t => (t.index, t.getV 0xF)) =
      some (0x0302#16, 0x02#8) := by decide +kernel
/-- V-IM-7, V-IM-8. -/
theorem test_ld_f :
    look 0xF029#16 (withRegs [(0, 0x0A)] blank) State.index = some 0x005A#16 ∧
      look 0xF029#16 (withRegs [(0, 0xFF)] { blank with cfg := { Config.default with fontGlyphStride := 5 } }) State.index =
        some 0x054B#16 := by decide +kernel
/-- V-IM-10. -/
theorem test_ld_b :
    look 0xF333#16 (withRegs [(3, 0x9C)] { blank with index := 0x0300#16 })
        (fun t => (t.mem.read 0x300, t.mem.read 0x301, t.mem.read 0x302, t.index)) =
      some (0x01#8, 0x05#8, 0x06#8, 0x0300#16) := by decide +kernel
/-- V-IM-14. -/
theorem test_ld_b_out_of_range :
    look 0xF333#16 (withBytes 0xFFE [0xAA, 0xBB] (withRegs [(3, 7)] { blank with index := 0x0FFE#16 }))
        (fun t => (t.mem.read 0xFFE, t.mem.read 0xFFF, t.pc, t.fault)) =
      some (0xAA#8, 0xBB#8, 0x0200#16,
        { cause := some .dataOutOfRange, pc := 0x0200#16, opcode := 0xF333#16, addr := 0x1000#16 }) := by decide +kernel
/-- V-IM-15. -/
theorem test_st_regs :
    look 0xF255#16 (withRegs [(0, 1), (1, 2), (2, 3), (3, 4)] { blank with index := 0x0400#16 })
        (fun t => (t.mem.read 0x400, t.mem.read 0x401, t.mem.read 0x402, t.mem.read 0x403, t.index)) =
      some (0x01#8, 0x02#8, 0x03#8, 0x00#8, 0x0400#16) := by decide +kernel
/-- V-IM-18. -/
theorem test_st_regs_out_of_range :
    look 0xFF55#16 (withRegs [(0, 1)] { blank with index := 0x0FF1#16 }) (fun t => (t.mem.read 0xFF1, t.faultCode, t.fault.addr)) =
      some (0x00#8, 3#3, 0x1000#16) := by decide +kernel
/-- V-IM-19. -/
theorem test_ld_regs :
    look 0xF165#16 (withBytes 0x400 [0xAA, 0xBB, 0xCC] { blank with index := 0x0400#16 })
        (fun t => (t.getV 0, t.getV 1, t.getV 2, t.index)) = some (0xAA#8, 0xBB#8, 0x00#8, 0x0400#16) := by decide +kernel
/-- V-IM-21. -/
theorem test_ld_regs_out_of_range :
    look 0xF065#16 { blank with index := 0x1000#16 } (fun t => (t.faultCode, t.fault.opcode, t.fault.addr)) =
      some (3#3, 0xF065#16, 0x1000#16) := by decide +kernel

/-- V-DI-1. -/
theorem test_cls :
    look 0x00E0#16 (withLit [(9, 4), (63, 31)] (withRegs [(0xF, 1)] blank)) (fun t => (litCount t, t.getV 0xF)) =
      some (0, 0x01#8) := by decide +kernel
/-- V-DI-12. -/
theorem test_drw_collision :
    look 0xD011#16 (withLit [(7, 0)] (withBytes 0x300 [0x81] { blank with index := 0x0300#16 }))
        (fun t => (litOf t [(0, 0), (7, 0)], litCount t, t.getV 0xF)) = some ([true, false], 1, 0x01#8) := by decide +kernel
/-- V-DI-5. -/
theorem test_drw_clips :
    look 0xD013#16 (withRegs [(1, 0x1F)] (withBytes 0x300 [0xFF, 0xFF, 0xFF] { blank with index := 0x0300#16 }))
        (fun t => (litOf t [(0, 31), (7, 31)], litCount t, t.getV 0xF)) = some ([true, true], 8, 0x00#8) := by decide +kernel

/-- V-DI-3, against the third sentence of 43_display.md R164 (log entry 7): a set bit lands on the display, and the draw lights no cell. -/
theorem test_r164_third_sentence :
    spriteBit (fun _ => 0x80#8) 0 0 1 0 0 = true ∧
      look 0xD011#16 (withLit [(0, 0)] (withBytes 0x300 [0x80] { blank with index := 0x0300#16 }))
        (fun t => (litCount t, t.getV 0xF)) = some (0, 0x01#8) := by decide +kernel

/-- V-KT-3, V-KT-2. -/
theorem test_skp :
    look 0xE19E#16 (withRegs [(1, 0x13)] { blank with keys := 0x0008#16 }) State.pc = some 0x0204#16 ∧
      look 0xE19E#16 (withRegs [(1, 0x03)] blank) State.pc = some 0x0202#16 := by decide +kernel
/-- V-KT-4, V-KT-5. -/
theorem test_skp_reference :
    look 0xE19E#16 (withRegs [(1, 0x03)] { blank with keys := 0x0008#16, cfg := reference }) State.pc = some 0x0202#16 ∧
      look 0xE19E#16 { blank with keys := 0x0001#16, cfg := reference } State.pc = some 0x0204#16 := by decide +kernel
/-- V-KT-6, V-KT-7. -/
theorem test_sknp :
    look 0xE1A1#16 (withRegs [(1, 0x03)] blank) State.pc = some 0x0204#16 ∧
      look 0xE1A1#16 (withRegs [(1, 0x03)] { blank with keys := 0x0008#16 }) State.pc = some 0x0202#16 := by decide +kernel
/-- V-KT-8. -/
theorem test_sknp_reference :
    look 0xE1A1#16 (withRegs [(1, 0x03)] { blank with keys := 0x0008#16, cfg := reference }) State.pc = some 0x0204#16 := by
  decide +kernel
/-- V-KT-13. -/
theorem test_ld_vx_dt : look 0xF407#16 { blank with dt := 0x3C#8 } (fun t => (t.getV 4, t.dt)) = some (0x3C#8, 0x3C#8) := by
  decide +kernel
/-- V-KT-9, V-KT-10. -/
theorem test_ld_vx_k :
    look 0xF30A#16 blank (fun t => (t.pc, t.getV 3)) = some (0x0200#16, 0x00#8) ∧
      look 0xF30A#16 { blank with keys := 0x0220#16 } (fun t => (t.pc, t.getV 3)) = some (0x0202#16, 0x05#8) := by decide +kernel
/-- V-KT-12. -/
theorem test_ld_vx_k_reference :
    look 0xF30A#16 { blank with keys := 0x0004#16, cfg := reference } (fun t => t.getV 3) = some 0x02#8 := by decide +kernel
/-- V-KT-14. -/
theorem test_ld_dt_vx : look 0xF215#16 (withRegs [(2, 0x3C)] blank) (fun t => (t.dt, t.st)) = some (0x3C#8, 0x00#8) := by
  decide +kernel
/-- V-KT-15, V-KT-16. -/
theorem test_ld_st_vx :
    look 0xF218#16 (withRegs [(2, 0x08)] blank) (fun t => (t.st, t.soundActive)) = some (0x08#8, true) ∧
      look 0xF218#16 { blank with st := 5#8 } (fun t => (t.st, t.soundActive)) = some (0x00#8, false) := by decide +kernel

/-! ### The step, the fetch and the commands -/

/-- V-FE-2, V-FE-3: an odd `pc`, and the last word of memory. -/
theorem test_fetch :
    look 0x600A#16 { blank with pc := 0x0201#16 } (fun t => (t.getV 0, t.pc)) = some (0x0A#8, 0x0203#16) ∧
      look 0x6001#16 { blank with pc := 0x0FFE#16 } (fun t => (t.getV 0, t.pc)) = some (0x01#8, 0x1000#16) := by decide +kernel
/-- V-FE-4, V-FE-5. -/
theorem test_fetch_out_of_range :
    look 0x6001#16 { blank with pc := 0x1000#16 } (fun t => (t.pc, t.fault)) =
        some (0x1000#16, { cause := some .fetchOutOfRange, pc := 0x1000#16, opcode := 0#16, addr := 0x1000#16 }) ∧
      look 0x6001#16 { blank with pc := 0x0FFF#16 } (fun t => (t.pc, t.fault)) =
        some (0x0FFF#16, { cause := some .fetchOutOfRange, pc := 0x0FFF#16, opcode := 0#16, addr := 0x1000#16 }) := by
  decide +kernel
/-- V-FE-6. -/
theorem test_halted_step :
    look 0x6001#16 { blank with fault := { FaultLatch.clear with cause := some .stackUnderflow } }
        (fun t => (t.getV 0, t.pc, t.diag)) = some (0x00#8, 0x0200#16, []) := by decide +kernel
/-- V-DE-1. -/
theorem test_warn :
    look 0x5AB1#16 blank (fun t => (t.diag, t.pc, t.faultCode)) =
      some ([{ opcode := 0x5AB1#16, addr := 0x0200#16 }], 0x0202#16, 0#3) := by decide +kernel
/-- V-RS-2: the first STEP after `RESET` with nothing loaded, and an instruction placed for the first STEP. -/
theorem test_first_step_after_reset :
    (match stepWith 0x00#8 State.reset with
      | .next t => some (t.diag, t.pc)
      | _ => none) = some ([{ opcode := 0x0000#16, addr := 0x0200#16 }], 0x0202#16) ∧
    (match step (State.reset.withFetchWord 16 0x6A5C) with
      | .next t => some (t.getV 0xA, t.pc)
      | _ => none) = some (0x5C#8, 0x0202#16) := by decide +kernel

/-- Some commands and what is looked at afterwards. -/
def after {α : Type} (cs : List Command) (s : State) (f : State → α) : Option α :=
  match performAll cs s with
  | .next t => some (f t)
  | _ => none

/-- W6. -/
theorem test_reset_loads_the_font :
    after [.reset] { blank with pc := 0x300#16, stack := [1#16], dt := 9#8 }
        (fun t => ([0x04F, 0x050, 0x09B, 0x0A0].map t.mem.read, t.pc, t.stack, t.dt)) =
      some ([0x00#8, 0xF0#8, 0xF0#8, 0x00#8], 0x0200#16, [], 0x00#8) := by decide +kernel
/-- W5. -/
theorem test_tick :
    after [.tick] { blank with dt := 2#8 } (fun t => (t.dt, t.st)) = some (1#8, 0#8) ∧
      after [.tick] { blank with dt := 1#8, st := 1#8 } (fun t => (t.dt, t.st, t.soundActive)) = some (0#8, 0#8, false) ∧
      after [.tick] blank (fun t => (t.dt, t.st)) = some (0#8, 0#8) := by decide +kernel
/-- V-KT-17, V-KT-18, V-KT-20. -/
theorem test_set_key :
    after [.setKey 3 true] blank State.keys = some 0x0008#16 ∧
      after [.setKey 3 false] { blank with keys := 0x0008#16 } State.keys = some 0x0000#16 ∧
      after [.setKey 16 true] blank State.keys = none := by decide +kernel
/-- V-KT-19. -/
theorem test_query_key :
    queryKey 3 { blank with keys := 0x0008#16 } = .ok true ∧
      queryKey 3 { blank with keys := 0x0008#16, cfg := reference } = .ok false := by decide +kernel
/-- V-RS-3, V-RS-4. -/
theorem test_host_write :
    after [.hostWrite 0x050 0x00#8] State.reset (fun t => t.hostRead 0x050) = some (.ok 0x00#8) ∧
      after [.hostWrite 0x1000 0x01#8] State.reset State.pc = none := by decide +kernel
/-- V-RS-5. -/
theorem test_copy_state :
    after [.copyState { blank with pc := 0x0300#16, quirks := true }]
        { blank with fault := { FaultLatch.clear with cause := some .stackUnderflow } } (fun t => (t.pc, t.quirks, t.faultCode)) =
      some (0x0300#16, true, 1#3) := by decide +kernel

/-! ### Witnesses: the hypotheses of each obligation are met, at the ends of their ranges -/

/-- The blank state has the invariant. -/
theorem blank_inv : blank.Inv :=
  ⟨Memory.nil_wf, (by decide : Config.default.wf), fun _ => Nat.zero_le _, (by decide : (0x0200#16).toNat ≤ 0x10FE),
    fun _ h => absurd h List.not_mem_nil, fun _ h => absurd h (by simp [blank, State.resetWith, Config.default]), rfl⟩

/-- The word 0x5AB1 is no opcode. -/
theorem not_opcode (i : Instr) : decode 0x5AB1#16 ≠ .ok i := by
  have h : decode 0x5AB1#16 = .error (.unrecognized 0x5AB1#16) := by decide
  rw [h]
  exact fun e => by cases e

theorem test_witness_ResetMeetsTheInvariant : Config.wf reference ∧ Config.wf { Config.default with fontBase := 4016 } := by decide

theorem test_witness_StepKeepsTheInvariant : ∃ t, blank.Inv ∧ step blank = .next t := ⟨_, blank_inv, rfl⟩

theorem test_witness_CommandsKeepTheInvariant :
    (∃ t, blank.Inv ∧ blank.cfg = blank.cfg ∧ perform (.copyState blank) blank = .next t) ∧
      ∃ t, perform (.hostWrite 0xFFF 0x12#8) blank = .next t := ⟨⟨_, blank_inv, rfl, rfl⟩, _, rfl⟩

/-- A state about to execute a word that the model's fetch reads at the last address a fetch may use. -/
def lastWord (w : Word) : State := { blank with pc := 0x0FFE#16, mem := [(0xFFE, highByte w), (0xFFF, lowByte w)] }

theorem test_witness_StepRunsTheDecodedInstruction :
    (lastWord 0x6A5C#16).fault.cause = none ∧ (lastWord 0x6A5C#16).pc.toNat + 1 < 4096 ∧ WellFormed (.ldByte 0xA#4 0x5C#8) ∧
      decode (joinBytes ((lastWord 0x6A5C#16).mem.read 0xFFE) ((lastWord 0x6A5C#16).mem.read 0xFFF)) =
        .ok (.ldByte 0xA#4 0x5C#8) :=
  ⟨rfl, by decide, Laws.wellFormed _, by decide⟩

theorem test_witness_UnrecognisedWordOnlyWarns :
    (lastWord 0x5AB1#16).fault.cause = none ∧ (lastWord 0x5AB1#16).pc.toNat + 1 < 4096 ∧
      joinBytes ((lastWord 0x5AB1#16).mem.read 0xFFE) ((lastWord 0x5AB1#16).mem.read 0xFFF) = 0x5AB1#16 ∧
      ∀ i, decode 0x5AB1#16 ≠ .ok i := ⟨rfl, by decide, by decide, not_opcode⟩

theorem test_witness_FetchOutOfRangeIsLatched :
    blank.fault.cause = none ∧ 4095 ≤ ({ blank with pc := 0x0FFF#16 } : State).pc.toNat ∧
      4095 ≤ ({ blank with pc := 0x10FE#16 } : State).pc.toNat := ⟨rfl, by decide, by decide⟩

/-- The blank state with I set. -/
def atIndex (i : Word) : State := { blank with index := i }

/-- A halted state. -/
def halt : State := { blank with fault := { FaultLatch.clear with cause := some .stackUnderflow, pc := 0x0200#16 } }

theorem test_witness_HaltedUntilReset :
    halt.fault.cause ≠ none ∧ Command.tick ≠ .reset ∧ (∀ r, Command.tick ≠ .step r) ∧ (∃ t, perform .tick halt = .next t) ∧
      ∃ t, perform .tick { halt with fault := FaultLatch.clear } = .next t :=
  ⟨by decide, by decide, fun _ => Command.noConfusion, ⟨_, rfl⟩, _, rfl⟩

theorem test_witness_FaultingStepIsPrecise :
    (∃ t, stepWith 0#8 { blank with pc := 0x0FFF#16 } = .next t ∧ blank.fault.cause = none ∧ t.fault.cause ≠ none) ∧
      ∃ t, stepWith 0#8 (lastWord 0x00EE#16) = .next t ∧ (lastWord 0x00EE#16).fault.cause = none ∧ t.fault.cause ≠ none :=
  ⟨⟨_, rfl, rfl, by decide⟩, _, rfl, rfl, by decide⟩

/-- Each clause: an empty stack, a stack at its depth, and each data instruction one byte past the end. -/
theorem test_witness_FaultsComeOnlyFromTheirInstructions :
    (∃ t, exec .ret blank = .next t ∧ t.fault.cause = some .stackUnderflow) ∧
    (∃ t, exec (.call 0#12) { blank with cfg := { Config.default with stackDepth := some 0 } } = .next t ∧
      t.fault.cause = some .stackOverflow) ∧
    (∃ t, exec (.drw 0#4 0#4 2#4) { blank with index := 0x0FFF#16 } = .next t ∧ t.fault.cause = some .dataOutOfRange) ∧
    (∃ t, exec (.ldB 0#4) { blank with index := 0x0FFE#16 } = .next t ∧ t.fault.cause = some .dataOutOfRange) ∧
    (∃ t, exec (.stRegs 1#4) { blank with index := 0x0FFF#16 } = .next t ∧ t.fault.cause = some .dataOutOfRange) ∧
    (∃ t, exec (.ldRegs 1#4) { blank with index := 0x0FFF#16 } = .next t ∧ t.fault.cause = some .dataOutOfRange) :=
  ⟨⟨_, rfl, rfl⟩, ⟨_, rfl, rfl⟩, ⟨_, rfl, rfl⟩, ⟨_, rfl, rfl⟩, ⟨_, rfl, rfl⟩, _, rfl, rfl⟩

theorem test_witness_DecodeOfEncodeIsTheInstruction :
    WellFormed (.drw 0xF#4 0xF#4 0xF#4) ∧ WellFormed (.jp 0xFFF#12) ∧ WellFormed (.ldByte 0x0#4 0xFF#8) :=
  ⟨Laws.wellFormed _, Laws.wellFormed _, Laws.wellFormed _⟩

theorem test_witness_EncodeOfDecodeIsTheWord : decode 0xFA65#16 = .ok (.ldRegs 0xA#4) := by decide

theorem test_witness_RecognisedExactlyByTheTable :
    (∀ i, decode 0x5AB1#16 ≠ .ok i) ∧ (0xFFFF#16, 0x00E0#16) ∈ opcodeRows ∧ 0x00E0#16 &&& 0xFFFF#16 = 0x00E0#16 :=
  ⟨not_opcode, by decide, by decide⟩

theorem test_witness_OnlyBcdAndBlockStoreWriteMemory :
    (∃ t, exec (.ldB 0#4) (withRegs [(0, 7)] blank) = .next t ∧ ∃ a, t.mem.read a ≠ blank.mem.read a) ∧
      ∃ t, exec (.stRegs 0#4) (withRegs [(0, 7)] blank) = .next t ∧ ∃ a, t.mem.read a ≠ blank.mem.read a :=
  ⟨⟨_, rfl, 2, by decide⟩, _, rfl, 0, by decide⟩

theorem test_witness_OnlyCallAndReturnTouchTheStack :
    Instr.cls ≠ .ret ∧ (∀ nnn, Instr.cls ≠ .call nnn) ∧ ∃ t, exec .cls blank = .next t :=
  ⟨by decide, fun _ => Instr.noConfusion, _, rfl⟩

theorem test_witness_WritersOfDisplayIndexAndTimers :
    (∃ t, exec .cls (withLit [(63, 31)] blank) = .next t ∧ t.display ≠ (withLit [(63, 31)] blank).display) ∧
    (∃ t, exec (.ldI 0xFFF#12) blank = .next t ∧ t.index ≠ blank.index) ∧
    (∃ t, exec (.ldDtVx 0#4) (withRegs [(0, 1)] blank) = .next t ∧ t.dt ≠ blank.dt) ∧
    (∃ t, exec (.ldStVx 0#4) (withRegs [(0, 1)] blank) = .next t ∧ t.st ≠ blank.st) :=
  ⟨⟨_, rfl, by decide +kernel⟩, ⟨_, rfl, by decide⟩, ⟨_, rfl, by decide⟩, _, rfl, by decide⟩

theorem test_witness_NoInstructionWritesKeysQuirksOrParameters :
    (∃ t, exec (.ldVxK 0#4) { blank with keys := 0x8000#16 } = .next t) ∧ ∃ t, step blank = .next t := ⟨⟨_, rfl⟩, _, rfl⟩

/-- A carry of 256 with X other than F, and an explicit X = F. -/
theorem test_witness_FlagRegisterWrittenOnlyAsListed :
    (∃ t, exec (.addReg 1#4 2#4) (withRegs [(1, 0xFF), (2, 1)] blank) = .next t ∧ t.getV 0xF#4 ≠ blank.getV 0xF#4) ∧
      ∃ t, exec (.ldByte 0xF#4 1#8) blank = .next t ∧ t.getV 0xF#4 ≠ blank.getV 0xF#4 :=
  ⟨⟨_, rfl, by decide⟩, _, rfl, by decide⟩

theorem test_witness_ProgramCounterAfterEveryStep :
    blank.fault.cause = none ∧ (∃ t, exec .cls blank = .next t ∧ t.fault.cause = none) ∧
      (∃ t, exec .ret blank = .next t ∧ t.fault.cause ≠ none) ∧
      (∃ t, stepWith 0#8 (lastWord 0x00EE#16) = .next t ∧ t.fault.cause ≠ none) ∧
      (∃ t, stepWith 0#8 (lastWord 0x6A5C#16) = .next t ∧ t.fault.cause = none) ∧
      (∃ t, stepWith 0#8 (lastWord 0x5AB1#16) = .next t ∧ t.fault.cause = none) ∧ ∀ i, decode 0x5AB1#16 ≠ .ok i :=
  ⟨rfl, ⟨_, rfl, rfl⟩, ⟨_, rfl, by decide⟩, ⟨_, rfl, by decide⟩, ⟨_, rfl, rfl⟩, ⟨_, rfl, rfl⟩, not_opcode⟩

theorem test_witness_ReturnPopsTheStack :
    ({ blank with stack := [0x0204#16] } : State).stack = [] ++ [0x0204#16] ∧ blank.fault.cause = none ∧ blank.stack = [] :=
  ⟨rfl, rfl, rfl⟩

/-- A state whose stack holds `l` and whose `STACK_DEPTH` is 1. -/
def depthOne (l : List Word) : State := { blank with stack := l, cfg := { Config.default with stackDepth := some 1 } }

/-- A stack of depth 1: empty it takes the call, with one address on it the call overflows; and an unbounded stack. -/
theorem test_witness_CallPushesTheReturnAddress :
    (∀ d, (depthOne []).cfg.stackDepth = some d → (depthOne []).stack.length < d) ∧
      (∀ d, blank.cfg.stackDepth = some d → blank.stack.length < d) ∧
      (depthOne [0x0202#16]).cfg.stackDepth = some 1 ∧ 1 ≤ (depthOne [0x0202#16]).stack.length ∧
      (depthOne [0x0202#16]).fault.cause = none :=
  ⟨fun d h => (by cases h; decide), fun _ h => (nomatch h), rfl, by decide, rfl⟩

theorem test_witness_SkipsOnTwoRegisters : (0x1#4 : Nibble) ≠ 0x0#4 ∧ (0xF#4 : Nibble) ≠ 0x0#4 := by decide

theorem test_witness_NestedCallsAndReturnsBalance : blank.cfg.stackDepth = none := rfl

/-- One call that fills an empty stack of depth 1. -/
theorem test_witness_NestedCallsWithinAFiniteDepthBalance :
    (depthOne []).cfg.stackDepth = some 1 ∧ (depthOne []).stack.length + ([] : List Addr12).length + 1 ≤ 1 := ⟨rfl, by decide⟩

/-- The sums 255 and 256, and each write order. -/
theorem test_witness_AliasedFlagFollowsTheWriteOrder :
    ((withRegs [(0xF, 0xFE), (2, 1)] blank).getV 0xF#4).toNat + ((withRegs [(0xF, 0xFE), (2, 1)] blank).getV 2#4).toNat ≤ 255 ∧
      ((withRegs [(0xF, 0xFF), (2, 1)] blank).getV 0xF#4).toNat + ((withRegs [(0xF, 0xFF), (2, 1)] blank).getV 2#4).toNat > 255 ∧
      (withRegs [(0xF, 0xFF), (2, 1)] blank).cfg.vfWriteOrder = .flagLast ∧
      ({ blank with cfg := reference } : State).cfg.vfWriteOrder = .resultLast := by decide +kernel

theorem test_witness_RandomIsMaskedByTheImmediate :
    (lastWord 0xC30F#16).fault.cause = none ∧ (lastWord 0xC30F#16).fetch = .ok (encode (.rnd 3#4 0x0F#8)) := by decide +kernel

/-- The sums 0x1000 and 0x0FFF. -/
theorem test_witness_AddToIndexWrapsAtTwelveBits :
    (atIndex 0x0FFF#16).index.toNat + ((withRegs [(5, 1)] (atIndex 0x0FFF#16)).getV 5#4).toNat > 0x0FFF ∧
      (atIndex 0x0FFE#16).index.toNat + ((withRegs [(5, 1)] (atIndex 0x0FFE#16)).getV 5#4).toNat ≤ 0x0FFF := by decide +kernel

/-- The defaults at the largest VX, and an address of exactly 0xFFFF. -/
theorem test_witness_GlyphAddressIsBasePlusStrides :
    blank.cfg.fontBase + ((withRegs [(0, 0xFF)] blank).getV 0#4).toNat * blank.cfg.fontGlyphStride ≤ 0xFFFF ∧
      0 + (0xFF#8).toNat * ({ Config.default with fontBase := 0, fontGlyphStride := 257 } : Config).fontGlyphStride ≤ 0xFFFF := by
  decide +kernel

/-- I = 0xFFD is the last in range, 0xFFE the first out of it. -/
theorem test_witness_BcdStoresThreeDigits :
    (atIndex 0x0FFD#16).index.toNat + 2 < 4096 ∧ 4096 ≤ (atIndex 0x0FFE#16).index.toNat + 2 ∧
      (atIndex 0x0FFE#16).fault.cause = none := by decide +kernel

/-- Sixteen registers: I = 0xFF0 is the last in range, 0xFF1 the first out of it. -/
theorem test_witness_BlockStoreWritesTheRegisters :
    (atIndex 0x0FF0#16).index.toNat + (0xF#4).toNat < 4096 ∧ 4096 ≤ (atIndex 0x0FF1#16).index.toNat + (0xF#4).toNat ∧
      (atIndex 0x0FF1#16).fault.cause = none := by decide +kernel

/-- One register: I = 0xFFF is the last in range, 0x1000 the first out of it. -/
theorem test_witness_BlockLoadReadsTheRegisters :
    (atIndex 0x0FFF#16).index.toNat + (0x0#4).toNat < 4096 ∧ 4096 ≤ (atIndex 0x1000#16).index.toNat + (0x0#4).toNat ∧
      (atIndex 0x1000#16).fault.cause = none := by decide +kernel

/-- Each kind of instruction with the last byte of its range at 4096. -/
theorem test_witness_DataRangeIsCheckedBeforeAnyAccess :
    (∃ k, k < (0xF#4 : Nibble).toNat ∧ 4096 ≤ (atIndex 0x0FF2#16).index.toNat + k) ∧
      (∃ k, k < 3 ∧ 4096 ≤ (atIndex 0x0FFE#16).index.toNat + k) ∧
      (∃ k, k < (0xF#4 : Nibble).toNat + 1 ∧ 4096 ≤ (atIndex 0x0FF1#16).index.toNat + k) ∧
      (atIndex 0x0FF2#16).fault.cause = none ∧ (atIndex 0x0FFE#16).fault.cause = none ∧ (atIndex 0x0FF1#16).fault.cause = none :=
  ⟨⟨14, by decide, by decide +kernel⟩, ⟨2, by decide, by decide +kernel⟩, ⟨15, by decide, by decide +kernel⟩, rfl, rfl, rfl⟩

theorem test_witness_BcdDigitsRebuildTheValue :
    (atIndex 0x0FFD#16).index.toNat + 2 < 4096 ∧ ∃ t, exec (.ldB 3#4) (atIndex 0x0FFD#16) = .next t := ⟨by decide +kernel, _, rfl⟩

theorem test_witness_BlockStoreThenLoadRestores :
    (atIndex 0x0FF0#16).index.toNat + (0xF#4).toNat < 4096 ∧
      ∃ t u : State, exec (.stRegs 0xF#4) (atIndex 0x0FF0#16) = .next t ∧ u.mem = t.mem ∧ u.index = t.index :=
  ⟨by decide +kernel, _, _, rfl, rfl, rfl⟩

/-- A block that ends at the last byte of memory, digits that end there, the last address, and the last fetch. -/
theorem test_witness_FetchSeesEarlierStores :
    (atIndex 0x0FF0#16).index.toNat + (0xF#4).toNat < 4096 ∧ (atIndex 0x0FFD#16).index.toNat + 2 < 4096 ∧ 4095 < 4096 ∧
      (0x0FFE#16).toNat + 1 < 4096 := by decide +kernel

theorem test_witness_CanonicalMemoryIsUnique :
    Memory.wf [(0x200, 0x12#8), (0xFFF, 0x01#8)] ∧
      ∀ a, Memory.read [(0x200, 0x12#8), (0xFFF, 0x01#8)] a = Memory.read [(0x200, 0x12#8), (0xFFF, 0x01#8)] a :=
  ⟨by decide, fun _ => rfl⟩

/-- A state about to draw its only sprite byte, 0x80 at 0xFFF, on the lit cell (63, 31). -/
def corner : State := withLit [(63, 31)] (withBytes 0xFFF [0x80] (withRegs [(0, 0xFF), (1, 0x1F)] (atIndex 0x0FFF#16)))

/-- No row at an I out of range, one row at the last byte, two rows from it; and a set bit on a lit cell. -/
theorem test_witness_DrawXorsTheSpriteAndReportsCollision :
    ((0x0#4 : Nibble) = 0x0#4 ∧ corner.index.toNat + (0x1#4).toNat ≤ 4096 ∧ (0x2#4 : Nibble) ≠ 0x0#4 ∧
      4096 < corner.index.toNat + (0x2#4).toNat ∧ corner.fault.cause = none) ∧
    ∃ cx cy, (∃ r c, r < (0x1#4 : Nibble).toNat ∧ c < 8 ∧ cx = (corner.getV 0#4).toNat % 64 + c ∧
        cy = (corner.getV 1#4).toNat % 32 + r ∧ (corner.mem.read (corner.index.toNat + r)).getLsbD (7 - c) = true) ∧
      cx < 64 ∧ cy < 32 ∧ corner.display.cell cx cy = true :=
  ⟨by decide +kernel, 63, 31, ⟨0, 0, by decide +kernel⟩, by decide +kernel⟩

/-- The other case: the same sprite on a clear display lands on no lit cell. -/
theorem test_witness_DrawWithoutCollision :
    ∀ cx, cx < 64 → ∀ cy, cy < 32 → (cx = 63 ∧ cy = 31) → (Display.clear).cell cx cy = false :=
  fun cx _ cy _ h => (by obtain ⟨rfl, rfl⟩ := h; decide +kernel)

theorem test_witness_DrawingTwiceRestoresTheDisplay :
    corner.index.toNat + (0x1#4).toNat ≤ 4096 ∧
      ∃ t u : State, exec (.drw 0#4 1#4 1#4) corner = .next t ∧ u.mem = t.mem ∧ u.index = t.index ∧ u.display = t.display ∧
        u.getV 0#4 = corner.getV 0#4 ∧ u.getV 1#4 = corner.getV 1#4 :=
  ⟨by decide +kernel, _, _, rfl, rfl, rfl, rfl, by decide +kernel, by decide +kernel⟩

/-- Key 15 pressed under FIXED, and key 0 under REFERENCE, each named by VX with its high bits set. -/
theorem test_witness_SkipsOnAKey :
    (15 = ((withRegs [(1, 0xFF)] blank).getV 1#4).toNat % 16 ∧ blank.cfg.keyTestMode = .fixed ∧
      (True ↔ ({ blank with keys := 0x8000#16 } : State).keys.toNat / 2 ^ 15 % 2 = 1)) ∧
    (0 = ((withRegs [(1, 0xF0)] blank).getV 1#4).toNat % 16 ∧ reference.keyTestMode = .reference ∧
      (True ↔ 0 = 0 ∧ ({ blank with keys := 0x0001#16 } : State).keys.toNat % 2 = 1)) := by decide +kernel

/-- The highest key alone, the lowest key among others, and no key. -/
theorem test_witness_WaitForKeyTakesTheLowestKey :
    (({ blank with keys := 0x8000#16 } : State).keys.getLsbD 15 = true ∧
        ∀ j, j < 15 → ({ blank with keys := 0x8000#16 } : State).keys.getLsbD j = false) ∧
      (({ blank with keys := 0x0021#16 } : State).keys.getLsbD 0 = true ∧
        ∀ j, j < 0 → ({ blank with keys := 0x0021#16 } : State).keys.getLsbD j = false) ∧
      blank.keys = 0x0000#16 ∧ ({ blank with keys := 0x8000#16 } : State).keys ≠ 0x0000#16 := by decide +kernel

theorem test_witness_KeyCommandsSetAndTestOneKey :
    (15 < 16 ∧ 16 ≤ 16) ∧ blank.cfg.keyTestMode = .fixed ∧ ({ blank with cfg := reference } : State).cfg.keyTestMode = .reference ∧
      (15 : Nat) ≠ 0 := by decide +kernel

theorem test_witness_HostWriteWritesOneByte : 4095 < 4096 ∧ 4096 ≤ 4096 ∧ (4094 : Nat) ≠ 4095 := by decide

theorem test_witness_SelfLoopNeverLeaves :
    (lastWord 0x1FFE#16).fault.cause = none ∧ (lastWord 0x1FFE#16).selfLoopEnd :=
  ⟨rfl, by decide, 0xFFE#12, by decide, by decide +kernel⟩

end Sys2Proof.Tests
end

section
/-! PROOFS. Memory after `RESET` in its two regions, the font table and the rest (10_state.md R37, R45), and the reset state at the
default parameters. -/

namespace Sys2Proof.Machine

/-- Inside the font table, memory after `RESET` reads as the table (70_reset_and_hazards.md R241). -/
theorem State.read_resetWith_font (c : Config) {k : Nat} (hk : k < fontSize) :
    (State.resetWith c).mem.read (c.fontBase + k) = c.fontTable[k] := by
  have hin : c.fontBase ≤ c.fontBase + k ∧ c.fontBase + k < c.fontBase + fontSize := by omega
  calc (State.resetWith c).mem.read (c.fontBase + k)
      = c.fontTable.toList.getD (c.fontBase + k - c.fontBase) unlistedByte :=
        (Memory.read_afterReset c _).trans (if_pos hin)
    _ = c.fontTable[k] := by simp [hk]

/-- Outside the font table, memory after `RESET` is zero (70_reset_and_hazards.md R241). -/
theorem State.read_resetWith_outside (c : Config) {a : Nat} (ha : a < c.fontBase ∨ c.fontBase + fontSize ≤ a) :
    (State.resetWith c).mem.read a = unlistedByte :=
  (Memory.read_afterReset c a).trans (if_neg (by omega))

/-- Five bytes in a row inside the font table, such as a glyph, are the same five bytes of the table (10_state.md R37). -/
theorem State.read_resetWith_fiveBytes (c : Config) {n : Nat} (hn : n + 5 ≤ 80) :
    (List.range 5).map (fun k => (State.resetWith c).mem.read (c.fontBase + n + k)) =
      (c.fontTable.toList.drop n).take 5 := by
  refine List.ext_getElem (by simp; omega) fun k hk _ => ?_
  have hk5 : k < 5 := by simpa using hk
  have hfont := State.read_resetWith_font c (k := n + k) (show n + k < 80 by omega)
  simpa [Nat.add_assoc] using hfont

end Sys2Proof.Machine

open Sys2Proof Sys2Proof.Machine

/-- Settles O2: the registers and the parameters are the fields of the reset state; the glyph bytes are those of the table, and the
three other addresses lie outside it. -/
theorem resetStateAtTheDefaults : Obligations.ResetStateAtTheDefaults := by
  have hfirst := State.read_resetWith_fiveBytes Config.default (n := 0) (by decide)
  have hlast := State.read_resetWith_fiveBytes Config.default (n := 75) (by decide)
  have hzero (a : Nat) (ha : a < 0x050 ∨ 0x050 + fontSize ≤ a) : State.reset.mem.read a = unlistedByte :=
    State.read_resetWith_outside Config.default ha
  exact ⟨rfl, rfl, rfl, rfl, rfl, rfl, rfl, rfl, rfl, rfl, rfl, hfirst.trans (by decide), hlast.trans (by decide),
    hzero _ (by decide), hzero _ (by decide), hzero _ (by decide)⟩

end

section
/-! PROOFS. The ends of an instruction, said once: it raises its fault, or it completes, and then `pc` is as the table of 10_state.md
R27 says and only the fields the instruction is for are written. -/

namespace Sys2Proof.Machine

/-! ### The completed instruction -/

/-- What an instruction that completes leaves. The ones that write more than `pc` and registers have a constructor each; `regs` is
every other one, with what 10_state.md R38 says of VF. -/
inductive Completes (s : State) : Instr → State → Prop
  | cls : Completes s .cls { s with pc := pcAfter s .cls, display := Display.clear }
  | drw (x y n : Nibble) :
      Completes s (.drw x y n)
        { s with
          pc := pcAfter s (.drw x y n)
          v := (s.setV vf (flagByte (s.drawSprite x y n).coll)).v
          display := (s.drawSprite x y n).display }
  | ret : Completes s .ret { s with pc := pcAfter s .ret, stack := s.stack.dropLast }
  | call (nnn : Addr12) (room : s.stackFull = false) :
      Completes s (.call nnn) { s with pc := pcAfter s (.call nnn), stack := s.stack ++ [s.pc + 2#16] }
  | ldI (nnn : Addr12) : Completes s (.ldI nnn) { s with pc := pcAfter s (.ldI nnn), index := immAddr nnn }
  | ldF (x : Nibble) : Completes s (.ldF x) { s with pc := pcAfter s (.ldF x), index := glyphAddr s.cfg (s.getV x) }
  | addI (x : Nibble) :
      Completes s (.addI x)
        { s with
          pc := pcAfter s (.addI x)
          v := (s.addToIndex (s.getV x)).v
          index := (s.addToIndex (s.getV x)).index }
  | ldB (x : Nibble) (inMemory : s.index.toNat + 3 ≤ 4096) :
      Completes s (.ldB x)
        { s with pc := pcAfter s (.ldB x), mem := s.mem.writeBytes s.index.toNat (bcdDigits (s.getV x)) }
  | stRegs (x : Nibble) (inMemory : s.index.toNat + (x.toNat + 1) ≤ 4096) :
      Completes s (.stRegs x) { s with pc := pcAfter s (.stRegs x), mem := s.mem.writeBytes s.index.toNat (s.regsUpTo x) }
  | ldDtVx (x : Nibble) : Completes s (.ldDtVx x) { s with pc := pcAfter s (.ldDtVx x), dt := s.getV x }
  | ldStVx (x : Nibble) : Completes s (.ldStVx x) { s with pc := pcAfter s (.ldStVx x), st := s.getV x }
  | regs (i : Instr) (v : Vector Byte 16)
      (vfKept : ¬ mayWriteVf s i → ({ s with v := v } : State).getV vf = s.getV vf) :
      Completes s i { s with pc := pcAfter s i, v := v }

/-- The two ends of an instruction: it completes, or it raises its execution fault. -/
def Ends (i : Instr) (s t : State) : Prop :=
  Completes s i t ∨ ∃ c a, RaisesWhen i s c a ∧ t = s.raise c (encode i) a

/-- An instruction that writes `pc` alone completes. -/
theorem Completes.pcOnly (s : State) (i : Instr) : Completes s i { s with pc := pcAfter s i } :=
  .regs i s.v fun _ => rfl

/-! ### The values of `pc` -/

theorem immAddr_eq_ofNat (nnn : Addr12) : immAddr nnn = BitVec.ofNat 16 nnn.toNat := by
  rw [← toNat_immAddr, BitVec.ofNat_toNat, BitVec.setWidth_eq]

theorem immAddr_add_zextByte (nnn : Addr12) (b : Byte) :
    immAddr nnn + zextByte b = BitVec.ofNat 16 (nnn.toNat + b.toNat) := by
  apply BitVec.eq_of_toNat_eq
  simp [BitVec.toNat_add]

/-- A skip on the advanced `pc` goes one or two instructions further (40_control_flow.md R99). -/
theorem State.skipIf_advance (s : State) (c : Bool) :
    s.advance.skipIf c = { s with pc := if c then s.pc + 4#16 else s.pc + 2#16 } := by
  cases c with
  | true => exact congrArg (fun a => { s with pc := a }) (BitVec.add_assoc s.pc 2#16 2#16)
  | false => rfl

/-- The rewind of FX0A undoes the advance (44_keys_timers.md R184). -/
theorem State.rewind_advance (s : State) : s.advance.rewind = s :=
  congrArg (fun a => { s with pc := a }) (BitVec.add_sub_cancel s.pc 2#16)

/-- A skip whose condition selects the `pc` of R27 completes. -/
theorem completes_skipIf {i : Instr} {s : State} {c : Bool}
    (h : (if c then s.pc + 4#16 else s.pc + 2#16) = pcAfter s i) : Completes s i (s.advance.skipIf c) := by
  rw [State.skipIf_advance, h]
  exact .pcOnly s i

/-- A skip on a condition that does not hold (44_keys_timers.md R182). -/
theorem ite_bnot (c : Bool) (a b : Word) : (if !c then a else b) = if c then b else a := by
  cases c <;> rfl

/-- A jump to the `pc` of R27 completes. -/
theorem completes_jump {i : Instr} {s : State} {a : Word} (h : a = pcAfter s i) : Completes s i (s.advance.jump a) := by
  rw [h]
  exact .pcOnly s i

/-! ### Register results and VF -/

/-- A result for VX leaves VF, unless X = F. -/
theorem State.getV_vf_setV {s : State} {x : Nibble} (b : Byte) (h : x ≠ vf) : (s.setV x b).getV vf = s.getV vf := by
  rw [State.getV_setV, if_neg h.symm]

/-- An instruction that advances and puts a result in VX completes, when X = F is on its list. -/
theorem completes_setV {i : Instr} {s : State} {x : Nibble} (b : Byte) (hpc : pcAfter s i = s.pc + 2#16)
    (hvf : x = vf → mayWriteVf s i) : Completes s i (s.advance.setV x b) := by
  have hc := Completes.regs i (s.setV x b).v fun h => State.getV_vf_setV b (mt hvf h)
  rwa [hpc] at hc

/-- An instruction that advances and writes back a result and a flag completes, when VF is on its list. -/
theorem completes_writeBack {i : Instr} {s : State} {x : Nibble} (b : Byte) (f : Option Bool)
    (hpc : pcAfter s i = s.pc + 2#16) (hvf : mayWriteVf s i) : Completes s i (s.advance.writeBack x b f) := by
  have hc := Completes.regs i (s.advance.writeBack x b f).v fun h => absurd hvf h
  rw [hpc] at hc
  rwa [State.writeBack_eq]

/-- 8XY4 completes: without a carry and with X other than F it leaves VF (41_alu.md R116). -/
theorem completes_addReg (x y : Nibble) (s : State) :
    Completes s (.addReg x y) (s.advance.writeBack x (s.getV x + s.getV y) (carryFlag (s.getV x) (s.getV y))) := by
  by_cases hvf : mayWriteVf s (.addReg x y)
  · exact completes_writeBack _ _ rfl hvf
  · obtain ⟨hcarry, hx⟩ := not_or.mp hvf
    rw [carryFlag, if_neg hcarry]
    exact completes_setV _ rfl fun h => absurd h hx

/-- FX1E completes. -/
theorem completes_addI (x : Nibble) (s : State) : Completes s (.addI x) (s.advance.addToIndex (s.getV x)) := by
  have hadv : s.advance.addToIndex (s.getV x) = (s.addToIndex (s.getV x)).advance := by
    unfold State.addToIndex
    rw [apply_ite State.advance]
    rfl
  rw [hadv, State.addToIndex_eq]
  exact .addI x

/-! ### Each instruction's end -/

theorem ends_ret {s t : State} (h : execRet s = .next t) : Ends .ret s t := by
  unfold execRet at h
  cases hl : s.stack.getLast? with
  | none =>
    rw [hl] at h
    obtain rfl := Host.Outcome.next.inj h
    exact .inr ⟨_, _, ⟨rfl, rfl, List.getLast?_eq_none_iff.mp hl⟩, rfl⟩
  | some a =>
    rw [hl] at h
    obtain rfl := Host.Outcome.next.inj h
    have ha : pcAfter s .ret = a := by simp [pcAfter, List.getLastD_eq_getLast?, hl]
    subst ha
    exact .inl .ret

theorem ends_call {nnn : Addr12} {s t : State} (h : execCall nnn s = .next t) : Ends (.call nnn) s t := by
  unfold execCall at h
  rw [immAddr_eq_ofNat] at h
  cases hf : s.stackFull with
  | true =>
    rw [if_pos hf] at h
    obtain rfl := Host.Outcome.next.inj h
    exact .inr ⟨_, _, ⟨rfl, rfl, hf⟩, rfl⟩
  | false =>
    rw [if_neg (by simp [hf])] at h
    obtain rfl := Host.Outcome.next.inj h
    exact .inl (.call nnn hf)

/-- A guarded data access ends with the state given, its range in memory, or with the fault (20_memory.md R57). -/
theorem withDataRange_inv {s t u : State} {w : Word} {n : Nat} (h : s.withDataRange w n t = .next u) :
    ((n = 0 ∨ s.index.toNat + n ≤ 4096) ∧ u = t) ∨
      (0 < n ∧ 4096 < s.index.toNat + n ∧
        u = s.raise .dataOutOfRange w (BitVec.ofNat 16 (max s.index.toNat 4096))) := by
  rw [State.withDataRange_eq] at h
  obtain rfl := Host.Outcome.next.inj h
  by_cases hr : n = 0 ∨ s.index.toNat + n ≤ 4096
  · exact .inl ⟨hr, if_pos hr⟩
  · exact .inr ⟨by omega, by omega, if_neg hr⟩

theorem ends_drw {x y n : Nibble} {s t : State} (h : execDrw x y n s = .next t) : Ends (.drw x y n) s t := by
  obtain ⟨-, rfl⟩ | ⟨hn, hout, rfl⟩ := withDataRange_inv h
  · exact .inl (.drw x y n)
  · exact .inr ⟨_, _, ⟨rfl, rfl, hn, hout⟩, rfl⟩

theorem ends_ldB {x : Nibble} {s t : State} (h : execLdB x s = .next t) : Ends (.ldB x) s t := by
  obtain ⟨hin, rfl⟩ | ⟨-, hout, rfl⟩ := withDataRange_inv h
  · exact .inl (.ldB x (by omega))
  · exact .inr ⟨_, _, ⟨rfl, rfl, hout⟩, rfl⟩

theorem ends_stRegs {x : Nibble} {s t : State} (h : execStRegs x s = .next t) : Ends (.stRegs x) s t := by
  obtain ⟨hin, rfl⟩ | ⟨-, hout, rfl⟩ := withDataRange_inv h
  · exact .inl (.stRegs x (by omega))
  · exact .inr ⟨_, _, ⟨rfl, rfl, hout⟩, rfl⟩

/-- FX65 loads VF exactly when X = F. -/
theorem ends_ldRegs {x : Nibble} {s t : State} (h : execLdRegs x s = .next t) : Ends (.ldRegs x) s t := by
  obtain ⟨-, rfl⟩ | ⟨-, hout, rfl⟩ := withDataRange_inv h
  · refine .inl (.regs (.ldRegs x) (s.loadRegsUpTo x).v fun hx => ?_)
    have hlt : ¬ vf.toNat ≤ x.toNat := fun hle =>
      hx (BitVec.eq_of_toNat_eq (Nat.le_antisymm (Nat.le_of_lt_succ x.isLt) hle))
    exact (State.getV_loadRegsUpTo s x vf).trans (if_neg hlt)
  · exact .inr ⟨_, _, ⟨rfl, rfl, hout⟩, rfl⟩

theorem ends_ldVxK {x : Nibble} {s t : State} (h : execLdVxK x s = .next t) : Ends (.ldVxK x) s t := by
  unfold execLdVxK at h
  refine .inl ?_
  cases hk : lowestKey s.keys with
  | none =>
    rw [hk] at h
    obtain rfl := Host.Outcome.next.inj h
    have hpc : s.pc = pcAfter s (.ldVxK x) := (if_pos (lowestKey_eq_none.mp hk)).symm
    have hc := Completes.pcOnly s (.ldVxK x)
    rw [← hpc] at hc
    rwa [State.rewind_advance]
  | some k =>
    rw [hk] at h
    obtain rfl := Host.Outcome.next.inj h
    have hkeys : s.keys ≠ 0#16 := fun h0 => by simp [lowestKey_eq_none.mpr h0] at hk
    exact completes_setV _ (if_neg hkeys) id

/-- Every instruction completes or raises its fault. -/
theorem exec_ends {i : Instr} {s t : State} (h : exec i s = .next t) : Ends i s t := by
  cases i with
  | ret => exact ends_ret h
  | call nnn => exact ends_call h
  | drw x y n => exact ends_drw h
  | ldB x => exact ends_ldB h
  | stRegs x => exact ends_stRegs h
  | ldRegs x => exact ends_ldRegs h
  | ldVxK x => exact ends_ldVxK h
  | cls => obtain rfl := Host.Outcome.next.inj h; exact .inl .cls
  | ldI nnn => obtain rfl := Host.Outcome.next.inj h; exact .inl (.ldI nnn)
  | ldF x => obtain rfl := Host.Outcome.next.inj h; exact .inl (.ldF x)
  | addI x => obtain rfl := Host.Outcome.next.inj h; exact .inl (completes_addI x s)
  | ldDtVx x => obtain rfl := Host.Outcome.next.inj h; exact .inl (.ldDtVx x)
  | ldStVx x => obtain rfl := Host.Outcome.next.inj h; exact .inl (.ldStVx x)
  | jp nnn => obtain rfl := Host.Outcome.next.inj h; exact .inl (completes_jump (immAddr_eq_ofNat nnn))
  | jpV0 nnn => obtain rfl := Host.Outcome.next.inj h; exact .inl (completes_jump (immAddr_add_zextByte nnn _))
  | seByte _ _ | sneByte _ _ | seReg _ _ | sneReg _ _ =>
    obtain rfl := Host.Outcome.next.inj h
    exact .inl (completes_skipIf (by simp [pcAfter]))
  | skp x => obtain rfl := Host.Outcome.next.inj h; exact .inl (completes_skipIf rfl)
  | sknp x =>
    obtain rfl := Host.Outcome.next.inj h
    exact .inl (completes_skipIf (ite_bnot _ _ _))
  | ldByte _ _ | addByte _ _ | ldReg _ _ | orReg _ _ | andReg _ _ | xorReg _ _ | rnd _ _ | ldVxDt _ =>
    obtain rfl := Host.Outcome.next.inj h
    exact .inl (completes_setV _ rfl id)
  | addReg x y => obtain rfl := Host.Outcome.next.inj h; exact .inl (completes_addReg x y s)
  | sub _ _ | shr _ _ | subn _ _ | shl _ _ =>
    obtain rfl := Host.Outcome.next.inj h
    exact .inl (completes_writeBack _ _ rfl trivial)

/-! ### What a completed instruction writes -/

theorem Completes.pc_eq {i : Instr} {s t : State} (h : Completes s i t) : t.pc = pcAfter s i := by cases h <;> rfl

theorem Completes.fault_eq {i : Instr} {s t : State} (h : Completes s i t) : t.fault = s.fault := by cases h <;> rfl

theorem Completes.writer_of_display_ne {i : Instr} {s t : State} (h : Completes s i t) (hd : t.display ≠ s.display) :
    i = .cls ∨ ∃ x y n, i = .drw x y n := by
  cases h with
  | cls => exact .inl rfl
  | drw x y n => exact .inr ⟨x, y, n, rfl⟩
  | _ => exact absurd rfl hd

theorem Completes.writer_of_index_ne {i : Instr} {s t : State} (h : Completes s i t) (hi : t.index ≠ s.index) :
    (∃ nnn, i = .ldI nnn) ∨ (∃ x, i = .addI x) ∨ ∃ x, i = .ldF x := by
  cases h with
  | ldI nnn => exact .inl ⟨nnn, rfl⟩
  | addI x => exact .inr (.inl ⟨x, rfl⟩)
  | ldF x => exact .inr (.inr ⟨x, rfl⟩)
  | _ => exact absurd rfl hi

theorem Completes.writer_of_dt_ne {i : Instr} {s t : State} (h : Completes s i t) (hd : t.dt ≠ s.dt) : ∃ x, i = .ldDtVx x := by
  cases h with
  | ldDtVx x => exact ⟨x, rfl⟩
  | _ => exact absurd rfl hd

theorem Completes.writer_of_st_ne {i : Instr} {s t : State} (h : Completes s i t) (hs : t.st ≠ s.st) : ∃ x, i = .ldStVx x := by
  cases h with
  | ldStVx x => exact ⟨x, rfl⟩
  | _ => exact absurd rfl hs

theorem Completes.mayWriteVf_of_getV_ne {i : Instr} {s t : State} (h : Completes s i t) (hv : t.getV vf ≠ s.getV vf) :
    mayWriteVf s i := by
  cases h with
  | drw x y n => trivial
  | addI x =>
    by_contra hwrap
    exact hv ((State.getV_addToIndex s (s.getV x) vf).trans (if_neg fun hw => hwrap hw.1))
  | regs _ v vfKept => exact not_imp_comm.mp vfKept hv
  | _ => exact absurd rfl hv

end Sys2Proof.Machine
end

section
/-! PROOFS. The call stack and no other instruction: an instruction but 2NNN and 00EE does the same on every stack (10_state.md R30). -/

namespace Sys2Proof.Machine

/-- The state with another call stack. -/
def State.withStack (s : State) (l : List Word) : State := { s with stack := l }

theorem State.skipIf_withStack (s : State) (l : List Word) (c : Bool) :
    (s.withStack l).skipIf c = (s.skipIf c).withStack l := by
  cases c <;> rfl

theorem State.writeBack_withStack (s : State) (l : List Word) (x : Nibble) (b : Byte) (f : Option Bool) :
    (s.withStack l).writeBack x b f = (s.writeBack x b f).withStack l := by
  unfold State.writeBack
  cases f with
  | none => rfl
  | some f => rw [show (s.withStack l).cfg = s.cfg from rfl]; cases s.cfg.vfWriteOrder <;> rfl

theorem State.addToIndex_withStack (s : State) (l : List Word) (a : Byte) :
    (s.withStack l).addToIndex a = (s.addToIndex a).withStack l := by
  unfold State.addToIndex
  rw [apply_ite (State.withStack · l)]
  rfl

theorem State.raise_withStack (s : State) (l : List Word) (c : Fault) (w a : Word) :
    (s.withStack l).raise c w a = (s.raise c w a).withStack l := by
  rw [State.raise_eq, State.raise_eq]
  rfl

theorem withDataRange_withStack {s t u : State} {w : Word} {n : Nat} (h : s.withDataRange w n t = .next u) (l : List Word) :
    (s.withStack l).withDataRange w n (t.withStack l) = .next (u.withStack l) := by
  rw [State.withDataRange_eq] at h
  obtain rfl := Host.Outcome.next.inj h
  rw [State.withDataRange_eq, State.raise_withStack, apply_ite (State.withStack · l)]
  rfl

theorem execLdVxK_withStack {x : Nibble} {s t : State} (h : execLdVxK x s = .next t) (l : List Word) :
    execLdVxK x (s.withStack l) = .next (t.withStack l) := by
  unfold execLdVxK at h ⊢
  rw [show (s.withStack l).keys = s.keys from rfl]
  cases hk : lowestKey s.keys with
  | none => rw [hk] at h; obtain rfl := Host.Outcome.next.inj h; rfl
  | some k => rw [hk] at h; obtain rfl := Host.Outcome.next.inj h; rfl

/-- An instruction but 2NNN and 00EE does on another stack what it did, and leaves that stack. -/
theorem exec_withStack {i : Instr} {s t : State} (hret : i ≠ .ret) (hcall : ∀ nnn, i ≠ .call nnn) (h : exec i s = .next t)
    (l : List Word) : exec i (s.withStack l) = .next (t.withStack l) := by
  cases i with
  | ret => exact absurd rfl hret
  | call nnn => exact absurd rfl (hcall nnn)
  | drw _ _ _ | ldB _ | stRegs _ | ldRegs _ => exact withDataRange_withStack h l
  | ldVxK x => exact execLdVxK_withStack h l
  | seByte _ _ | sneByte _ _ | seReg _ _ | sneReg _ _ | skp _ | sknp _ =>
    obtain rfl := Host.Outcome.next.inj h
    exact congrArg Host.Outcome.next (State.skipIf_withStack s.advance l _)
  | addReg _ _ | sub _ _ | shr _ _ | subn _ _ | shl _ _ =>
    obtain rfl := Host.Outcome.next.inj h
    exact congrArg Host.Outcome.next (State.writeBack_withStack s.advance l _ _ _)
  | addI x =>
    obtain rfl := Host.Outcome.next.inj h
    exact congrArg Host.Outcome.next (State.addToIndex_withStack s.advance l _)
  | cls | jp _ | jpV0 _ | ldByte _ _ | addByte _ _ | ldReg _ _ | orReg _ _ | andReg _ _ | xorReg _ _ | rnd _ _ | ldI _ | ldF _
  | ldVxDt _ | ldDtVx _ | ldStVx _ =>
    obtain rfl := Host.Outcome.next.inj h
    rfl

/-- It leaves the stack: that is the case of the stack it had. -/
theorem exec_stack {i : Instr} {s t : State} (hret : i ≠ .ret) (hcall : ∀ nnn, i ≠ .call nnn) (h : exec i s = .next t) :
    t.stack = s.stack := by
  have hsame := (exec_withStack hret hcall h s.stack).symm.trans h
  exact (congrArg State.stack (Host.Outcome.next.inj hsame)).symm

end Sys2Proof.Machine

open Sys2Proof Sys2Proof.Machine

/-- Settles O18: the frame is the case of the stack it had. -/
theorem onlyCallAndReturnTouchTheStack : Obligations.OnlyCallAndReturnTouchTheStack :=
  fun _ _ _ hret hcall h => ⟨exec_stack hret hcall h, exec_withStack hret hcall h⟩

/-- Settles O19: a fault writes the latch alone, and each completed instruction writes the fields of its own row. -/
theorem writersOfDisplayIndexAndTimers : Obligations.WritersOfDisplayIndexAndTimers := by
  intro i s t h
  obtain hc | ⟨c, a, -, rfl⟩ := exec_ends h
  · exact ⟨hc.writer_of_display_ne, hc.writer_of_index_ne, hc.writer_of_dt_ne, hc.writer_of_st_ne⟩
  · exact ⟨absurd (s.raise_display c _ a), absurd (s.raise_index c _ a), absurd (s.raise_dt c _ a),
      absurd (s.raise_st c _ a)⟩

/-- Settles O21. -/
theorem flagRegisterWrittenOnlyAsListed : Obligations.FlagRegisterWrittenOnlyAsListed := by
  intro i s t h hv
  obtain hc | ⟨c, a, -, rfl⟩ := exec_ends h
  · exact hc.mayWriteVf_of_getV_ne hv
  · exact absurd (State.getV_congr (s.raise_v c _ a) vf) hv

end

section
/-! PROOFS. What an instruction and a step leave of the keyboard, the quirks bit and the parameters, and the value of `pc`. -/

namespace Sys2Proof.Machine

theorem exec_control {i : Instr} {s t : State} (h : exec i s = .next t) :
    t.keys = s.keys ∧ t.quirks = s.quirks ∧ t.cfg = s.cfg ∧ t.diag = s.diag := by
  obtain ⟨u, hu, hends⟩ := exec_cases i s
  obtain rfl : t = u := Host.Outcome.next.inj (h.symm.trans hu)
  obtain ⟨-, hdiag, hcfg, hkeys, hquirks, -, -⟩ | ⟨c, a, -, rfl⟩ := hends
  · exact ⟨hkeys, hquirks, hcfg, hdiag⟩
  · simp

theorem stepWith_control {r : Byte} {s t : State} (h : stepWith r s = .next t) :
    t.keys = s.keys ∧ t.quirks = s.quirks ∧ t.cfg = s.cfg := by
  obtain ⟨-, heq⟩ | ⟨-, -, heq⟩ | ⟨-, -, w, -, ⟨i, -, heq⟩ | ⟨-, heq⟩⟩ := stepWith_cases r s
  · obtain rfl := Host.Outcome.next.inj (heq.symm.trans h)
    exact ⟨rfl, rfl, rfl⟩
  · obtain rfl := Host.Outcome.next.inj (heq.symm.trans h)
    simp
  · obtain ⟨hkeys, hquirks, hcfg, -⟩ := exec_control (heq.symm.trans h)
    exact ⟨hkeys, hquirks, hcfg⟩
  · obtain rfl := Host.Outcome.next.inj (heq.symm.trans h)
    simp

/-- A fault raised with none latched is latched. -/
theorem State.raise_cause_ne_none {s : State} (hs : s.fault.cause = none) (c : Fault) (w a : Word) :
    (s.raise c w a).fault.cause ≠ none := by
  rw [State.raise_fault s c w a ((State.halted_eq_false s).mpr hs)]
  exact Option.some_ne_none c

/-- 10_state.md R27 for one instruction. -/
theorem exec_pc {i : Instr} {s t : State} (h : exec i s = .next t) (hs : s.fault.cause = none) :
    (t.fault.cause = none → t.pc = pcAfter s i) ∧ (t.fault.cause ≠ none → t.pc = s.pc) := by
  obtain hc | ⟨c, a, -, rfl⟩ := exec_ends h
  · exact ⟨fun _ => hc.pc_eq, fun hf => absurd (hc.fault_eq ▸ hs) hf⟩
  · exact ⟨fun hf => absurd hf (State.raise_cause_ne_none hs c _ a), fun _ => s.raise_pc c _ a⟩

/-- The random byte of a STEP does not matter for `pc`. -/
theorem pcAfter_supplyRnd (s : State) (r : Byte) (i : Instr) : pcAfter (s.supplyRnd r) i = pcAfter s i := rfl

/-- 10_state.md R27 for one STEP. -/
theorem stepWith_pc {r : Byte} {s t : State} (h : stepWith r s = .next t) (hs : s.fault.cause = none) :
    (t.fault.cause ≠ none → t.pc = s.pc) ∧
    (t.fault.cause = none → ∃ w, s.fetch = .ok w ∧ (∀ i, decode w = .ok i → t.pc = pcAfter s i) ∧
      ((∀ i, decode w ≠ .ok i) → t.pc = s.pc + 2#16)) := by
  obtain ⟨hhalt, -⟩ | ⟨-, -, heq⟩ | ⟨-, -, w, hw, ⟨i, hi, heq⟩ | ⟨hbad, heq⟩⟩ := stepWith_cases r s
  · exact absurd hs hhalt
  · obtain rfl := Host.Outcome.next.inj (heq.symm.trans h)
    exact ⟨fun _ => State.raise_pc _ _ _ _, fun hf => absurd hf (State.raise_cause_ne_none (s := s.supplyRnd r) hs _ _ _)⟩
  · obtain ⟨hcompletes, hfaults⟩ := exec_pc (heq.symm.trans h) hs
    refine ⟨hfaults, fun hf => ⟨w, hw, fun j hj => ?_, fun hno => absurd hi (hno i)⟩⟩
    obtain rfl : i = j := Except.ok.inj (hi.symm.trans hj)
    exact (hcompletes hf).trans (pcAfter_supplyRnd s r i)
  · obtain rfl := Host.Outcome.next.inj (heq.symm.trans h)
    refine ⟨fun hf => absurd hs hf, fun _ => ⟨w, hw, fun i hi => ?_, fun _ => rfl⟩⟩
    cases hbad.symm.trans hi

end Sys2Proof.Machine

open Sys2Proof Sys2Proof.Machine

/-- Settles O20. -/
theorem noInstructionWritesKeysQuirksOrParameters : Obligations.NoInstructionWritesKeysQuirksOrParameters :=
  ⟨fun _ _ _ => exec_control, fun _ _ => stepWith_control⟩

/-- Settles O22. -/
theorem programCounterAfterEveryStep : Obligations.ProgramCounterAfterEveryStep :=
  ⟨fun _ _ _ => exec_pc, fun _ _ _ => stepWith_pc⟩

end

section
/-! PROOFS. The invariant: after RESET, after every STEP and after every host command. -/

namespace Sys2Proof.Machine

/-! ### The invariant field by field -/

/-- 10_state.md R45: the reset state has the invariant. -/
theorem State.resetWith_inv {c : Config} (h : c.wf) : (State.resetWith c).Inv where
  mem_wf := Memory.afterReset_wf h
  cfg_wf := h
  index_le _ := Nat.zero_le _
  pc_le := (by decide : startAddr.toNat ≤ 0x10FE)
  returns_le _ ha := absurd ha List.not_mem_nil
  stack_fits _ _ := Nat.zero_le _
  latch_wf := rfl

/-- The table of 10_state.md R27 stays within its bound, from an address where an instruction can be fetched. -/
theorem pcAfter_le {s : State} (hi : s.Inv) (hpc : s.pc.toNat < 0x0FFF) (i : Instr) : (pcAfter s i).toNat ≤ 0x10FE := by
  have h2 : (s.pc + 2#16).toNat ≤ 0x10FE := by bv_omega
  have h4 : (s.pc + 4#16).toNat ≤ 0x10FE := by bv_omega
  have hskip (p : Prop) [Decidable p] : (if p then s.pc + 4#16 else s.pc + 2#16).toNat ≤ 0x10FE := by split <;> assumption
  cases i with
  | ret =>
    change (s.stack.getLastD 0#16).toNat ≤ 0x10FE
    rw [List.getLastD_eq_getLast?]
    cases hl : s.stack.getLast? with
    | none => decide
    | some a => exact Nat.le_trans (hi.returns_le a (List.mem_of_getLast? hl)) (by decide)
  | jp nnn | call nnn =>
    change (BitVec.ofNat 16 nnn.toNat).toNat ≤ 0x10FE
    rw [BitVec.toNat_ofNat]
    omega
  | jpV0 nnn =>
    rw [pcAfter, BitVec.toNat_ofNat]
    omega
  | seByte _ _ | sneByte _ _ | seReg _ _ | sneReg _ _ | skp _ => exact hskip _
  | sknp x =>
    rw [pcAfter]
    split <;> assumption
  | ldVxK x =>
    rw [pcAfter]
    split <;> omega
  | _ => exact h2

/-- FX1E keeps I within 12 bits (10_state.md R31). -/
theorem index_addToIndex_le {s : State} (h : s.index.toNat ≤ 0x0FFF) (a : Byte) : (s.addToIndex a).index.toNat ≤ 0x0FFF := by
  rw [State.index_addToIndex]
  split <;> rw [BitVec.toNat_ofNat] <;> omega

/-- FX29 keeps I within 12 bits, under the condition of 10_state.md R31. -/
theorem glyphAddr_le {c : Config} (h : c.indexBounded) (a : Byte) : (glyphAddr c a).toNat ≤ 0x0FFF := by
  have hmul : a.toNat * c.fontGlyphStride ≤ 255 * c.fontGlyphStride :=
    Nat.mul_le_mul_right _ (Nat.le_of_lt_succ a.isLt)
  have hle : c.fontBase + a.toNat * c.fontGlyphStride ≤ 0xFFF := Nat.le_trans (Nat.add_le_add_left hmul _) h
  rw [toNat_glyphAddr (by omega)]
  exact hle

/-- The fault address the translator records is out of range (10_state.md R44). -/
theorem le_toNat_max_4096 (a : Word) : 0x1000 ≤ (BitVec.ofNat 16 (max a.toNat 4096)).toNat := by
  have := a.isLt
  rw [BitVec.toNat_ofNat, Nat.mod_eq_of_lt (by omega)]
  exact Nat.le_max_right _ _

/-- The latch of an execution fault is as 10_state.md R44 says. -/
theorem RaisesWhen.latch_wf {i : Instr} {s : State} {c : Fault} {a : Word} (h : RaisesWhen i s c a) (pc w : Word) :
    FaultLatch.wf { cause := some c, pc := pc, opcode := w, addr := a } := by
  cases i with
  | ret | call _ =>
    obtain ⟨rfl, rfl, -⟩ := h
    rfl
  | drw _ _ _ | ldB _ | stRegs _ | ldRegs _ =>
    obtain ⟨rfl, rfl, -⟩ := h
    exact le_toNat_max_4096 s.index
  | _ => exact h.elim

/-! ### The operations keep it -/

/-- A command that is refused outside its range, where it answers a next state. -/
theorem eq_of_guard_eq_next {p : Prop} [Decidable p] {u t : State} {r : Refusal}
    (h : (if p then .next u else .refused r : Host.Outcome State Fault Refusal) = .next t) : p ∧ u = t := by
  by_cases hp : p
  · rw [if_pos hp] at h
    exact ⟨hp, Host.Outcome.next.inj h⟩
  · rw [if_neg hp] at h
    cases h

section
variable {s : State} (hi : s.Inv)
include hi

theorem State.Inv.supplyRnd (r : Byte) : (s.supplyRnd r).Inv := { hi with }

theorem State.Inv.warn (w : Word) (hpc : s.pc.toNat < 0x0FFF) : (s.warn w).Inv :=
  { hi with pc_le := by rw [State.warn_pc]; bv_omega }

theorem State.Inv.raise {c : Fault} {w a : Word} (hs : s.fault.cause = none)
    (hl : FaultLatch.wf { cause := some c, pc := s.pc, opcode := w, addr := a }) : (s.raise c w a).Inv := by
  rw [State.raise_eq, if_neg (by simp [State.halted, hs])]
  exact { hi with latch_wf := hl }

theorem State.Inv.push (hroom : s.stackFull = false) {a : Word} (ha : a.toNat ≤ 0x1000) : (s.push a).Inv :=
  { hi with
    returns_le := fun b hb => by
      obtain hb | rfl := List.mem_append.mp hb |>.imp_right List.mem_singleton.mp
      · exact hi.returns_le b hb
      · exact ha
    stack_fits := fun depth hd => by
      have hlt : ¬ depth ≤ s.stack.length := fun hle =>
        Bool.false_ne_true (hroom.symm.trans ((State.stackFull_eq_true s).mpr ⟨depth, hd, hle⟩))
      rw [State.push_stack, List.length_append, List.length_singleton]
      omega }

theorem State.Inv.dropLast : ({ s with stack := s.stack.dropLast } : State).Inv :=
  { hi with
    returns_le := fun a ha => hi.returns_le a (List.mem_of_mem_dropLast ha)
    stack_fits := fun depth hd => by
      have := hi.stack_fits depth hd
      rw [List.length_dropLast]
      omega }

theorem State.Inv.jump {a : Word} (ha : a.toNat ≤ 0x10FE) : (s.jump a).Inv := { hi with pc_le := ha }

theorem State.Inv.setIndex {a : Word} (ha : s.cfg.indexBounded → a.toNat ≤ 0x0FFF) : (s.setIndex a).Inv :=
  { hi with index_le := ha }

theorem State.Inv.storeAtIndex {bytes : List Byte} (h : s.index.toNat + bytes.length ≤ 4096) :
    (s.storeAtIndex bytes).Inv :=
  { hi with mem_wf := Memory.writeBytes_wf hi.mem_wf bytes h }

/-- A completed instruction keeps the invariant. -/
theorem State.Inv.completes (hpc : s.pc.toNat < 0x0FFF) {i : Instr} {t : State} (h : Completes s i t) : t.Inv := by
  have hle := pcAfter_le hi hpc i
  cases h with
  | ret => exact hi.dropLast.jump hle
  | call nnn room => exact (hi.push room (a := s.pc + 2#16) (by bv_omega)).jump hle
  | ldI nnn => exact (hi.jump hle).setIndex fun _ => (toNat_immAddr nnn).trans_le (Nat.le_of_lt_succ nnn.isLt)
  | ldF x => exact (hi.jump hle).setIndex fun hb => glyphAddr_le hb _
  | addI x => exact { hi.jump hle with index_le := fun hb => index_addToIndex_le (hi.index_le hb) _ }
  | ldB x inMemory => exact (hi.storeAtIndex (bytes := bcdDigits (s.getV x)) inMemory).jump hle
  | stRegs x inMemory => exact (hi.storeAtIndex (by rwa [State.length_regsUpTo])).jump hle
  | cls | drw _ _ _ | ldDtVx _ | ldStVx _ | regs _ _ _ => exact { hi with pc_le := hle }

theorem State.Inv.exec (hs : s.fault.cause = none) (hpc : s.pc.toNat < 0x0FFF) {i : Instr} {t : State}
    (h : exec i s = .next t) : t.Inv := by
  obtain hc | ⟨c, a, hraises, rfl⟩ := exec_ends h
  · exact hi.completes hpc hc
  · exact hi.raise hs (hraises.latch_wf s.pc _)

/-- Every STEP keeps the invariant. -/
theorem State.Inv.stepWith {r : Byte} {t : State} (h : stepWith r s = .next t) : t.Inv := by
  obtain ⟨-, heq⟩ | ⟨hs, -, heq⟩ | ⟨hs, hpc, w, -, ⟨i, -, heq⟩ | ⟨-, heq⟩⟩ := stepWith_cases r s
  · obtain rfl := Host.Outcome.next.inj (heq.symm.trans h)
    exact hi
  · obtain rfl := Host.Outcome.next.inj (heq.symm.trans h)
    exact (hi.supplyRnd r).raise hs ⟨rfl, le_toNat_max_4096 s.pc⟩
  · exact (hi.supplyRnd r).exec hs hpc (heq.symm.trans h)
  · obtain rfl := Host.Outcome.next.inj (heq.symm.trans h)
    exact (hi.supplyRnd r).warn w hpc

/-- COPY_STATE from a source with the same parameters (60_exceptions.md R226): the latch stays the receiver's. -/
theorem State.Inv.copyFrom {source : State} (hsrc : source.Inv) (hcfg : source.cfg = s.cfg) : (s.copyFrom source).Inv where
  mem_wf := hsrc.mem_wf
  cfg_wf := hi.cfg_wf
  index_le hb := hsrc.index_le (hcfg ▸ hb)
  pc_le := hsrc.pc_le
  returns_le := hsrc.returns_le
  stack_fits depth hd := hsrc.stack_fits depth (hcfg ▸ hd)
  latch_wf := hi.latch_wf

/-- Every host command keeps the invariant, COPY_STATE from a source with the same parameters that has it. -/
theorem State.Inv.perform {c : Command} {t : State}
    (hsrc : ∀ source, c = .copyState source → source.Inv ∧ source.cfg = s.cfg) (h : perform c s = .next t) : t.Inv := by
  cases c with
  | reset =>
    obtain rfl := Host.Outcome.next.inj h
    exact { State.resetWith_inv hi.cfg_wf with }
  | step r => exact hi.stepWith h
  | setKey key pressed =>
    obtain ⟨-, rfl⟩ := eq_of_guard_eq_next h
    exact { hi with }
  | queryKey key =>
    obtain ⟨-, rfl⟩ := eq_of_guard_eq_next h
    exact hi
  | hostWrite addr byte =>
    obtain ⟨haddr, rfl⟩ := eq_of_guard_eq_next h
    exact { hi with mem_wf := Memory.write_wf hi.mem_wf haddr byte }
  | copyState source =>
    obtain rfl := Host.Outcome.next.inj h
    obtain ⟨hinv, hcfg⟩ := hsrc source rfl
    exact hi.copyFrom hinv hcfg
  | tick | clearDisplay | setQuirks _ =>
    obtain rfl := Host.Outcome.next.inj h
    exact { hi with }

end

end Sys2Proof.Machine

open Sys2Proof Sys2Proof.Machine

/-- Settles O3. -/
theorem resetMeetsTheInvariant : Obligations.ResetMeetsTheInvariant :=
  ⟨State.resetWith_inv (by decide), fun _ => State.resetWith_inv⟩

/-- Settles O4: a STEP ends in the same state, a completed instruction, a decode warning or a latched fault, and each keeps the
invariant. -/
theorem stepKeepsTheInvariant : Obligations.StepKeepsTheInvariant :=
  fun _ _ hi => hi.stepWith

/-- Settles O5. -/
theorem commandsKeepTheInvariant : Obligations.CommandsKeepTheInvariant :=
  fun _ _ _ hi hsrc h => hi.perform hsrc h

end

section
/-! PROOFS. The reset values (10_state.md R45), and VF where it is both result and flag (R24). -/

namespace Sys2Proof.Machine

/-- VF after the writeback of a result for VF itself (10_state.md R24). -/
theorem State.getV_vf_writeBack_vf (s : State) (b : Byte) (f : Bool) :
    (s.writeBack vf b (some f)).getV vf = if s.cfg.vfWriteOrder = .flagLast then flagByte f else b := by
  rw [State.getV_writeBack]
  cases s.cfg.vfWriteOrder <;> rfl

/-- VF after the writeback of 8FY4: the carry only where there is one and the flag write comes last (41_alu.md R116). -/
theorem State.getV_vf_writeBack_carry (s : State) (a b result : Byte) :
    (s.writeBack vf result (carryFlag a b)).getV vf =
      if a.toNat + b.toNat > 255 ∧ s.cfg.vfWriteOrder = .flagLast then 0x01#8 else result := by
  by_cases hc : a.toNat + b.toNat > 255
  · rw [carryFlag, if_pos hc, State.getV_vf_writeBack_vf]
    simp [hc, flagByte]
  · rw [carryFlag, if_neg hc, if_neg fun h => hc h.1]
    exact State.getV_setV s vf vf result

end Sys2Proof.Machine

open Sys2Proof Sys2Proof.Machine

/-- Settles O1: memory after RESET in its two regions; every other piece of state is a field of the reset state. -/
theorem resetGivesEveryStatedValue : Obligations.ResetGivesEveryStatedValue := by
  intro s
  refine ⟨s.resetCommand, rfl, fun a => ?_, fun x y _ _ => Display.cell_clear x y, rfl, rfl, rfl, rfl, rfl, fun z => ?_,
    rfl, rfl, rfl, rfl, rfl, rfl, rfl, rfl⟩
  · by_cases ha : s.cfg.fontBase ≤ a ∧ a < s.cfg.fontBase + 80
    · obtain ⟨k, rfl⟩ := Nat.exists_eq_add_of_le ha.1
      have hfont := State.read_resetWith_font s.cfg (k := k) (show k < 80 by omega)
      rw [dif_pos ha]
      refine hfont.trans ?_
      simp
    · rw [dif_neg ha]
      exact State.read_resetWith_outside s.cfg (show a < s.cfg.fontBase ∨ s.cfg.fontBase + 80 ≤ a by omega)
  · exact Vector.getElem_replicate z.isLt

/-- Settles O35: each of the five writes back a result for VF, and 8FY4 a flag only with a carry. -/
theorem aliasedFlagFollowsTheWriteOrder : Obligations.AliasedFlagFollowsTheWriteOrder := by
  intro y s
  have hadd (r : Byte) := s.advance.getV_vf_writeBack_carry (s.getV vf) (s.getV y) r
  refine ⟨_, _, _, _, _, rfl, rfl, rfl, rfl, rfl, rfl, ?_, fun hlast => ?_, fun hlast => ?_⟩
  · exact fun hle => (hadd _).trans (if_neg fun h => Nat.not_lt.mpr hle h.1)
  · have hflag (b : Byte) (f : Bool) : (s.advance.writeBack vf b (some f)).getV vf = flagByte f :=
      (s.advance.getV_vf_writeBack_vf b f).trans (if_pos hlast)
    exact ⟨fun hcarry => (hadd _).trans (if_pos ⟨hcarry, hlast⟩), hflag _ _, hflag _ _, hflag _ _, hflag _ _⟩
  · have hne : s.cfg.vfWriteOrder ≠ .flagLast := by simp [hlast]
    have hresult (b : Byte) (f : Bool) : (s.advance.writeBack vf b (some f)).getV vf = b :=
      (s.advance.getV_vf_writeBack_vf b f).trans (if_neg hne)
    exact ⟨(hadd _).trans (if_neg fun h => hne h.2), hresult _ _, hresult _ _, hresult _ _, hresult _ _⟩

end

section
/-! PROOFS. Memory as the instructions, the fetch and the host reach it (20_memory.md): the guarded data access in and out of range, what a
fetch and a store say of the bytes, and the uniqueness of the canonical form. -/

namespace Sys2Proof.Machine

/-! ### The canonical form -/

/-- In a canonical memory the cells are exactly the addresses that read as another byte than an unlisted one. -/
theorem Memory.mem_iff_read {m : Memory} (h : m.wf) (c : Host.Cell) :
    c ∈ m ↔ m.read c.1 = c.2 ∧ c.2 ≠ unlistedByte := by
  induction m with
  | nil => exact iff_of_false List.not_mem_nil fun hread => hread.2 hread.1.symm
  | cons d m ih =>
    obtain ⟨hrising, hcells⟩ := h
    obtain ⟨hd, hm⟩ := List.pairwise_cons.mp hrising
    have ih := ih ⟨hm, fun e he => hcells e (List.mem_cons_of_mem d he)⟩
    rw [List.mem_cons, Memory.read_cons]
    by_cases hc : d.1 = c.1
    · have hnot : c ∉ m := fun hcm => Nat.ne_of_lt (hd c hcm) hc
      rw [if_pos hc]
      constructor
      · rintro (rfl | hcm)
        · exact ⟨rfl, (hcells c List.mem_cons_self).2⟩
        · exact absurd hcm hnot
      · exact fun hread => .inl (Prod.ext hc.symm hread.1.symm)
    · rw [if_neg hc, ← ih]
      exact or_iff_right fun hcd => hc (congrArg Prod.fst hcd).symm

/-- The cells of a canonical memory are distinct. -/
theorem Memory.nodup_of_wf {m : Memory} (h : m.wf) : m.Nodup :=
  h.1.imp fun hlt heq => Nat.ne_of_lt hlt (congrArg Prod.fst heq)

/-- Canonical memories with the same cells are the same list: the addresses rise. -/
theorem Memory.eq_of_mem_iff {m m' : Memory} (h : m.wf) (h' : m'.wf) (hmem : ∀ c, c ∈ m ↔ c ∈ m') : m = m' :=
  ((List.perm_ext_iff_of_nodup (nodup_of_wf h) (nodup_of_wf h')).mpr hmem).eq_of_pairwise
    (fun _ _ _ _ hlt hgt => absurd hlt (Nat.lt_asymm hgt)) h.1 h'.1

/-! ### The guarded data access -/

/-- A fault raised with none latched writes the latch and nothing else (60_exceptions.md R204). -/
theorem State.raise_of_no_fault {s : State} (hs : s.fault.cause = none) (c : Fault) (w a : Word) :
    s.raise c w a = { s with fault := { cause := some c, pc := s.pc, opcode := w, addr := a } } := by
  rw [State.raise_eq, if_neg (by simp [State.halted, hs])]

/-- The lowest address out of range fits the latch (20_memory.md R56, R57). -/
theorem toNat_max_4096 (a : Word) : (BitVec.ofNat 16 (max a.toNat 4096)).toNat = max a.toNat 4096 := by
  have := a.isLt
  exact (BitVec.toNat_ofNat _ _).trans <| Nat.mod_eq_of_lt (by omega)

/-- A data access whose whole range is in memory answers its next state. -/
theorem State.withDataRange_of_le {s : State} {n : Nat} (h : s.index.toNat + n ≤ 4096) (w : Word) (t : State) :
    s.withDataRange w n t = .next t := by
  rw [State.withDataRange_eq, if_pos (.inr h)]

/-- A data access with any address out of range writes the latch and nothing else, whatever its next state (20_memory.md R57). -/
theorem State.withDataRange_of_outside {s : State} {n k : Nat} (hk : k < n) (hout : 4096 ≤ s.index.toNat + k)
    (hs : s.fault.cause = none) (w : Word) (t : State) :
    s.withDataRange w n t =
      .next { s with
        fault := { cause := some .dataOutOfRange, pc := s.pc, opcode := w,
                   addr := BitVec.ofNat 16 (max s.index.toNat 4096) } } := by
  rw [State.withDataRange_eq, if_neg (by omega), State.raise_of_no_fault hs]

/-! ### Stores and fetches -/

/-- Memory after FX55's store: byte k of the block is Vk (42_index_memory.md R144). -/
theorem State.read_writeBytes_regsUpTo (s : State) (m : Memory) (base : Nat) (x : Nibble) (a : Nat) :
    (m.writeBytes base (s.regsUpTo x)).read a =
      if base ≤ a ∧ a ≤ base + x.toNat then s.getV (BitVec.ofNat 4 (a - base)) else m.read a := by
  rw [Memory.read_writeBytes, State.length_regsUpTo]
  by_cases ha : base ≤ a ∧ a ≤ base + x.toNat
  · have hk : (BitVec.ofNat 4 (a - base)).toNat = a - base := (BitVec.toNat_ofNat _ _).trans <| Nat.mod_eq_of_lt (by have := x.isLt; omega)
    rw [if_pos (by omega), if_pos ha, ← s.getD_regsUpTo x (BitVec.ofNat 4 (a - base)) (by omega) unlistedByte, hk]
  · rw [if_neg (by omega), if_neg ha]

/-- Memory after FX33's store: hundreds, tens and units (42_index_memory.md R143). -/
theorem Memory.read_writeBytes_bcdDigits (m : Memory) (base : Nat) (b : Byte) (a : Nat) :
    (m.writeBytes base (bcdDigits b)).read a =
      if a = base then BitVec.ofNat 8 (b.toNat / 100)
      else if a = base + 1 then BitVec.ofNat 8 (b.toNat / 10 % 10)
      else if a = base + 2 then BitVec.ofNat 8 (b.toNat % 10)
      else m.read a := by
  simp only [bcdDigits, Memory.writeBytes, Memory.read_write]
  obtain rfl | h0 := eq_or_ne a base
  · simp [show a + 1 + 1 ≠ a by omega]
  obtain rfl | h1 := eq_or_ne a (base + 1)
  · simp
  obtain rfl | h2 := eq_or_ne a (base + 2)
  · simp
  simp [h0, h1, h2, h0.symm, h1.symm, h2.symm]

/-- A fetch in range is the big-endian word of what memory reads as (20_memory.md R51, R60). -/
theorem State.fetchAt_of_read {t : State} {now : Nat → Byte} (h : ∀ a, t.mem.read a = now a) (p : Word)
    (hp : p.toNat + 1 < 4096) : t.fetchAt p = .ok (joinBytes (now p.toNat) (now (p.toNat + 1))) := by
  rw [← h, ← h]
  exact (State.fetch_eq _).trans (if_pos (show p.toNat < 0x0FFF by omega))

/-! ### The host's write -/

/-- HOST_WRITE inside memory (20_memory.md R65). -/
theorem perform_hostWrite_of_lt {addr : Nat} (h : addr < 4096) (byte : Byte) (s : State) :
    perform (.hostWrite addr byte) s = .next { s with mem := s.mem.write addr byte } :=
  if_pos h

/-- HOST_WRITE outside memory (20_memory.md R65). -/
theorem perform_hostWrite_of_ge {addr : Nat} (h : 4096 ≤ addr) (byte : Byte) (s : State) :
    perform (.hostWrite addr byte) s = .refused .hostAddressOutOfRange :=
  if_neg (Nat.not_lt.mpr h)

/-- The host's read follows the byte that memory reads as. -/
theorem State.hostRead_congr {s t : State} {a : Nat} (h : t.mem.read a = s.mem.read a) : t.hostRead a = s.hostRead a := by
  rw [State.hostRead, State.hostRead, h]

end Sys2Proof.Machine

open Sys2Proof Sys2Proof.Machine

/-- Settles O43: each of the four is a guarded data access, so it faults whatever it would have stored, loaded or drawn. -/
theorem dataRangeIsCheckedBeforeAnyAccess : Obligations.DataRangeIsCheckedBeforeAnyAccess := by
  rintro i n s hi ⟨k, hk, hout⟩ hs
  have hfault (w : Word) (u : State) := State.withDataRange_of_outside hk hout hs w u
  obtain ⟨x, y, n, rfl, rfl⟩ | ⟨x, rfl, rfl⟩ | ⟨x, rfl | rfl, rfl⟩ := hi
  all_goals exact ⟨_, hfault _ _, rfl, toNat_max_4096 s.index⟩

/-- Settles O46: each store writes the memory that the fetch reads, so the fetch has the bytes that memory then reads as. -/
theorem fetchSeesEarlierStores : Obligations.FetchSeesEarlierStores := by
  refine ⟨fun x s now hin hnow => ?_, fun x s now hin hnow => ?_, fun addr byte s now hin hnow => ?_⟩
  · refine ⟨_, State.withDataRange_of_le (by omega) _ _, State.fetchAt_of_read fun a => ?_⟩
    exact (s.read_writeBytes_regsUpTo s.mem s.index.toNat x a).trans (hnow a).symm
  · refine ⟨_, State.withDataRange_of_le (by omega) _ _, State.fetchAt_of_read fun a => ?_⟩
    exact (s.mem.read_writeBytes_bcdDigits s.index.toNat (s.getV x) a).trans (hnow a).symm
  · refine ⟨_, perform_hostWrite_of_lt hin byte s, State.fetchAt_of_read fun a => ?_⟩
    rw [hnow a, Memory.read_write]
    exact if_congr eq_comm rfl rfl

/-- Settles O47: the reads decide the cells, and the rising addresses decide their order. -/
theorem canonicalMemoryIsUnique : Obligations.CanonicalMemoryIsUnique := by
  intro m m' h h' hread
  refine Memory.eq_of_mem_iff h h' fun c => ?_
  rw [Memory.mem_iff_read h, Memory.mem_iff_read h', hread]

/-- Settles O8: of the four things a STEP can do, only the fetch fault is left. -/
theorem fetchOutOfRangeIsLatched : Obligations.FetchOutOfRangeIsLatched := by
  intro r s hs hpc
  obtain ⟨hhalt, -⟩ | ⟨-, -, heq⟩ | ⟨-, hin, -⟩ := stepWith_cases r s
  · exact absurd hs hhalt
  · rw [State.raise_of_no_fault (s := s.supplyRnd r) hs] at heq
    exact ⟨_, heq, ⟨fun _ _ => rfl, rfl, rfl, ⟨rfl, rfl⟩, fun _ => rfl, rfl, rfl, rfl, rfl⟩, rfl, rfl, rfl, rfl, rfl,
      toNat_max_4096 s.pc⟩
  · omega

/-- Settles O56. -/
theorem hostWriteWritesOneByte : Obligations.HostWriteWritesOneByte := by
  intro addr byte s
  refine ⟨fun h => ⟨_, perform_hostWrite_of_lt h byte s, ?_, fun a ha => State.hostRead_congr ?_, rfl⟩,
    fun h => perform_hostWrite_of_ge h byte s⟩
  · rw [State.hostRead, if_pos h, Memory.read_write, if_pos rfl]
  · exact (s.mem.read_write addr byte a).trans (if_neg ha.symm)

end

section
/-! PROOFS. The decoder and the encoder are inverse to each other, the opcode table tells exactly which words are recognised, and the step
runs what the fetched word decodes to (30_encoding.md). -/

namespace Sys2Proof

/-! ### Encoding what a word decodes to: for each of the decoder's functions, its rows encode field 1 and the fields they match -/

theorem encode_of_decodeZero {nnn : Addr12} {i : Instr} (h : decodeZero nnn = some i) : encode i = encodeNNN 0x0#4 nnn := by
  unfold decodeZero at h
  split at h <;> cases h <;> rfl

theorem encode_of_decodeFive {x y n : Nibble} {i : Instr} (h : decodeFive x y n = some i) : encode i = encodeXYN 0x5#4 x y n := by
  unfold decodeFive at h
  split at h <;> cases h
  rfl

theorem encode_of_decodeEight {x y n : Nibble} {i : Instr} (h : decodeEight x y n = some i) : encode i = encodeXYN 0x8#4 x y n := by
  unfold decodeEight at h
  split at h <;> cases h <;> rfl

theorem encode_of_decodeNine {x y n : Nibble} {i : Instr} (h : decodeNine x y n = some i) : encode i = encodeXYN 0x9#4 x y n := by
  unfold decodeNine at h
  split at h <;> cases h
  rfl

theorem encode_of_decodeE {x : Nibble} {nn : Byte} {i : Instr} (h : decodeE x nn = some i) : encode i = encodeXNN 0xE#4 x nn := by
  unfold decodeE at h
  split at h <;> cases h <;> rfl

theorem encode_of_decodeF {x : Nibble} {nn : Byte} {i : Instr} (h : decodeF x nn = some i) : encode i = encodeXNN 0xF#4 x nn := by
  unfold decodeF at h
  split at h <;> cases h <;> rfl

/-- One case for each value of field 1: the encoding has the word's own fields, those that a sub-decoder matches included. -/
theorem encode_of_decodeFields {op : Nibble} {w : Word} {i : Instr} (hop : fieldOp w = op) (h : decodeFields op w = some i) :
    encode i = w := by
  unfold decodeFields at h
  split at h
  · exact (encode_of_decodeZero h).trans (encodeNNN_eq_self hop rfl)
  · exact Option.some.inj h ▸ encodeNNN_eq_self hop rfl
  · exact Option.some.inj h ▸ encodeNNN_eq_self hop rfl
  · exact Option.some.inj h ▸ encodeXNN_eq_self hop rfl rfl
  · exact Option.some.inj h ▸ encodeXNN_eq_self hop rfl rfl
  · exact (encode_of_decodeFive h).trans (encodeXYN_eq_self hop rfl rfl rfl)
  · exact Option.some.inj h ▸ encodeXNN_eq_self hop rfl rfl
  · exact Option.some.inj h ▸ encodeXNN_eq_self hop rfl rfl
  · exact (encode_of_decodeEight h).trans (encodeXYN_eq_self hop rfl rfl rfl)
  · exact (encode_of_decodeNine h).trans (encodeXYN_eq_self hop rfl rfl rfl)
  · exact Option.some.inj h ▸ encodeNNN_eq_self hop rfl
  · exact Option.some.inj h ▸ encodeNNN_eq_self hop rfl
  · exact Option.some.inj h ▸ encodeXNN_eq_self hop rfl rfl
  · exact Option.some.inj h ▸ encodeXYN_eq_self hop rfl rfl rfl
  · exact (encode_of_decodeE h).trans (encodeXNN_eq_self hop rfl rfl)
  · exact (encode_of_decodeF h).trans (encodeXNN_eq_self hop rfl rfl)
  · cases h

/-! ### Decoding an encoding -/

/-- Field 1 and the fixed fields of an encoding select the instruction's own row, and the operand fields are its operands. -/
theorem decodeFields_encode (i : Instr) : decodeFields (fieldOp (encode i)) (encode i) = some i := by
  cases i with
  | cls | ret => decide
  | jp nnn | call nnn | ldI nnn | jpV0 nnn => simp only [encode, fieldOp_encodeNNN, decodeFields, fieldNNN_encodeNNN]
  | seByte x nn | sneByte x nn | ldByte x nn | addByte x nn | rnd x nn =>
    simp only [encode, fieldOp_encodeXNN, decodeFields, fieldX_encodeXNN, fieldNN_encodeXNN]
  | seReg x y | sneReg x y =>
    simp only [encode, fieldOp_encodeXYN, decodeFields, decodeFive, decodeNine, fieldX_encodeXYN, fieldY_encodeXYN, fieldN_encodeXYN]
  | ldReg x y | orReg x y | andReg x y | xorReg x y | addReg x y | sub x y | shr x y | subn x y | shl x y =>
    simp only [encode, fieldOp_encodeXYN, decodeFields, decodeEight, fieldX_encodeXYN, fieldY_encodeXYN, fieldN_encodeXYN]
  | drw x y n => simp only [encode, fieldOp_encodeXYN, decodeFields, fieldX_encodeXYN, fieldY_encodeXYN, fieldN_encodeXYN]
  | skp x | sknp x => simp only [encode, fieldOp_encodeXNN, decodeFields, decodeE, fieldX_encodeXNN, fieldNN_encodeXNN]
  | ldVxDt x | ldVxK x | ldDtVx x | ldStVx x | addI x | ldF x | ldB x | stRegs x | ldRegs x =>
    simp only [encode, fieldOp_encodeXNN, decodeFields, decodeF, fieldX_encodeXNN, fieldNN_encodeXNN]

/-- A word decodes to an instruction exactly when it is the instruction's encoding (30_encoding.md R75). -/
theorem decode_eq_ok_iff_encode_eq {w : Word} {i : Instr} : decode w = .ok i ↔ encode i = w := by
  rw [decode_eq_ok]
  constructor
  · exact encode_of_decodeFields rfl
  · rintro rfl
    exact decodeFields_encode i

theorem encode_injective : Function.Injective encode := fun _ _ h =>
  Except.ok.inj ((decode_eq_ok_iff_encode_eq.mpr h).symm.trans (decode_eq_ok_iff_encode_eq.mpr rfl))

/-! ### The masks of the opcode table -/

/-- The bits that a format fixes, as the mask of its rows of spec/opcode_table.json (30_encoding.md R73, R75). -/
def Format.mask : Format → Word
  | .fixed => 0xFFFF#16
  | .nnn | .xnn | .xyn => 0xF000#16
  | .xy0 => 0xF00F#16
  | .x => 0xF0FF#16

theorem encodeNNN_and (op op' : Nibble) (nnn nnn' : Addr12) :
    encodeNNN op nnn &&& encodeNNN op' nnn' = encodeNNN (op &&& op') (nnn &&& nnn') :=
  BitVec.and_append

theorem encodeXNN_and (op op' x x' : Nibble) (nn nn' : Byte) :
    encodeXNN op x nn &&& encodeXNN op' x' nn' = encodeXNN (op &&& op') (x &&& x') (nn &&& nn') := by
  rw [encodeXNN, encodeXNN, encodeNNN_and, BitVec.and_append]
  rfl

theorem encodeXYN_and (op op' x x' y y' n n' : Nibble) :
    encodeXYN op x y n &&& encodeXYN op' x' y' n' = encodeXYN (op &&& op') (x &&& x') (y &&& y') (n &&& n') := by
  rw [encodeXYN, encodeXYN, encodeXNN_and, BitVec.and_append]
  rfl

/-- The rows of the format with no operand fix the whole word. -/
theorem and_FFFF (w : Word) : w &&& 0xFFFF#16 = w := BitVec.and_allOnes

/-- The rows of formats NNN, XNN and XYN fix field 1. -/
theorem encodeNNN_and_F000 (op : Nibble) (nnn : Addr12) : encodeNNN op nnn &&& 0xF000#16 = encodeNNN op 0x000#12 :=
  (encodeNNN_and op 0xF#4 nnn 0x000#12).trans (congrArg₂ encodeNNN BitVec.and_allOnes BitVec.and_zero)

/-- The rows of format X fix field 1 and the low byte. -/
theorem encodeXNN_and_F0FF (op x : Nibble) (nn : Byte) : encodeXNN op x nn &&& 0xF0FF#16 = encodeXNN op 0x0#4 nn := by
  refine (encodeXNN_and op 0xF#4 x 0x0#4 nn 0xFF#8).trans ?_
  rw [BitVec.and_zero]
  exact congrArg₂ (encodeXNN · 0x0#4 ·) BitVec.and_allOnes BitVec.and_allOnes

/-- The rows of format XY0 fix field 1 and field 4. -/
theorem encodeXYN_and_F00F (op x y n : Nibble) : encodeXYN op x y n &&& 0xF00F#16 = encodeXYN op 0x0#4 0x0#4 n := by
  refine (encodeXYN_and op 0xF#4 x 0x0#4 y 0x0#4 n 0xF#4).trans ?_
  rw [BitVec.and_zero, BitVec.and_zero]
  exact congrArg₂ (encodeXYN · 0x0#4 0x0#4 ·) BitVec.and_allOnes BitVec.and_allOnes

/-! ### A word that a row matches is an encoding of the row's instruction -/

/-- Where the mask of a row is all ones, the word has the bits of the row's match. -/
theorem extractLsb'_eq_of_and {w mask m : Word} {k n : Nat} (hmask : mask.extractLsb' k n = BitVec.allOnes n) (h : w &&& mask = m) :
    w.extractLsb' k n = m.extractLsb' k n := by
  rw [← h, BitVec.extractLsb'_and, hmask, BitVec.and_allOnes]

theorem fieldOp_of_and_F000 {w : Word} {op : Nibble} (h : w &&& 0xF000#16 = encodeNNN op 0x000#12) : fieldOp w = op :=
  (extractLsb'_eq_of_and rfl h).trans (fieldOp_encodeNNN ..)

theorem encodeXNN_of_and_F0FF {w : Word} {op : Nibble} {nn : Byte} (h : w &&& 0xF0FF#16 = encodeXNN op 0x0#4 nn) :
    encodeXNN op (fieldX w) nn = w :=
  encodeXNN_eq_self ((extractLsb'_eq_of_and rfl h).trans (fieldOp_encodeXNN ..)) rfl
    ((extractLsb'_eq_of_and rfl h).trans (fieldNN_encodeXNN ..))

theorem encodeXYN_of_and_F00F {w : Word} {op n : Nibble} (h : w &&& 0xF00F#16 = encodeXYN op 0x0#4 0x0#4 n) :
    encodeXYN op (fieldX w) (fieldY w) n = w :=
  encodeXYN_eq_self ((extractLsb'_eq_of_and rfl h).trans (fieldOp_encodeXYN ..)) rfl rfl
    ((extractLsb'_eq_of_and rfl h).trans (fieldN_encodeXYN ..))

theorem encodeNNN_of_and_F000 {w : Word} {op : Nibble} (h : w &&& 0xF000#16 = encodeNNN op 0x000#12) : encodeNNN op (fieldNNN w) = w :=
  encodeNNN_eq_self (fieldOp_of_and_F000 h) rfl

theorem encodeXNN_of_and_F000 {w : Word} {op : Nibble} (h : w &&& 0xF000#16 = encodeNNN op 0x000#12) :
    encodeXNN op (fieldX w) (fieldNN w) = w :=
  encodeXNN_eq_self (fieldOp_of_and_F000 h) rfl rfl

theorem encodeXYN_of_and_F000 {w : Word} {op : Nibble} (h : w &&& 0xF000#16 = encodeNNN op 0x000#12) :
    encodeXYN op (fieldX w) (fieldY w) (fieldN w) = w :=
  encodeXYN_eq_self (fieldOp_of_and_F000 h) rfl rfl rfl

end Sys2Proof

namespace Sys2Proof.Machine

/-! ### The rows of the opcode table -/

/-- Every encoding matches a row, the one that its format masks out of it. -/
theorem exists_row_of_encode (i : Instr) : ∃ r ∈ opcodeRows, encode i &&& r.1 = r.2 := by
  cases i with
  | cls | ret => exact ⟨(0xFFFF#16, _), by decide, and_FFFF _⟩
  | jp nnn | call nnn | ldI nnn | jpV0 nnn => exact ⟨(0xF000#16, _), by decide, encodeNNN_and_F000 _ nnn⟩
  | seByte x nn | sneByte x nn | ldByte x nn | addByte x nn | rnd x nn =>
    exact ⟨(0xF000#16, _), by decide, encodeNNN_and_F000 _ (x ++ nn)⟩
  | drw x y n => exact ⟨(0xF000#16, _), by decide, encodeNNN_and_F000 _ (x ++ (y ++ n : Byte))⟩
  | seReg x y | sneReg x y | ldReg x y | orReg x y | andReg x y | xorReg x y | addReg x y | sub x y | shr x y | subn x y
  | shl x y => exact ⟨(0xF00F#16, _), by decide, encodeXYN_and_F00F _ x y _⟩
  | skp x | sknp x | ldVxDt x | ldVxK x | ldDtVx x | ldStVx x | addI x | ldF x | ldB x | stRegs x | ldRegs x =>
    exact ⟨(0xF0FF#16, _), by decide, encodeXNN_and_F0FF _ x _⟩

/-- The instruction of every row, in the table's order: a word that matches the row encodes it, with the word's operand fields. -/
theorem exists_encode_of_row (w : Word) :
    ∀ r ∈ opcodeRows, w &&& r.1 = r.2 → ∃ i, encode i = w ∧ i.format.mask = r.1 := by
  simp only [opcodeRows, List.forall_mem_cons]
  exact ⟨fun h => ⟨.cls, h.symm.trans (and_FFFF w), rfl⟩, fun h => ⟨.ret, h.symm.trans (and_FFFF w), rfl⟩,
    fun h => ⟨.jp _, encodeNNN_of_and_F000 h, rfl⟩, fun h => ⟨.call _, encodeNNN_of_and_F000 h, rfl⟩,
    fun h => ⟨.seByte _ _, encodeXNN_of_and_F000 h, rfl⟩, fun h => ⟨.sneByte _ _, encodeXNN_of_and_F000 h, rfl⟩,
    fun h => ⟨.seReg _ _, encodeXYN_of_and_F00F h, rfl⟩, fun h => ⟨.ldByte _ _, encodeXNN_of_and_F000 h, rfl⟩,
    fun h => ⟨.addByte _ _, encodeXNN_of_and_F000 h, rfl⟩, fun h => ⟨.ldReg _ _, encodeXYN_of_and_F00F h, rfl⟩,
    fun h => ⟨.orReg _ _, encodeXYN_of_and_F00F h, rfl⟩, fun h => ⟨.andReg _ _, encodeXYN_of_and_F00F h, rfl⟩,
    fun h => ⟨.xorReg _ _, encodeXYN_of_and_F00F h, rfl⟩, fun h => ⟨.addReg _ _, encodeXYN_of_and_F00F h, rfl⟩,
    fun h => ⟨.sub _ _, encodeXYN_of_and_F00F h, rfl⟩, fun h => ⟨.shr _ _, encodeXYN_of_and_F00F h, rfl⟩,
    fun h => ⟨.subn _ _, encodeXYN_of_and_F00F h, rfl⟩, fun h => ⟨.shl _ _, encodeXYN_of_and_F00F h, rfl⟩,
    fun h => ⟨.sneReg _ _, encodeXYN_of_and_F00F h, rfl⟩, fun h => ⟨.ldI _, encodeNNN_of_and_F000 h, rfl⟩,
    fun h => ⟨.jpV0 _, encodeNNN_of_and_F000 h, rfl⟩, fun h => ⟨.rnd _ _, encodeXNN_of_and_F000 h, rfl⟩,
    fun h => ⟨.drw _ _ _, encodeXYN_of_and_F000 h, rfl⟩, fun h => ⟨.skp _, encodeXNN_of_and_F0FF h, rfl⟩,
    fun h => ⟨.sknp _, encodeXNN_of_and_F0FF h, rfl⟩, fun h => ⟨.ldVxDt _, encodeXNN_of_and_F0FF h, rfl⟩,
    fun h => ⟨.ldVxK _, encodeXNN_of_and_F0FF h, rfl⟩, fun h => ⟨.ldDtVx _, encodeXNN_of_and_F0FF h, rfl⟩,
    fun h => ⟨.ldStVx _, encodeXNN_of_and_F0FF h, rfl⟩, fun h => ⟨.addI _, encodeXNN_of_and_F0FF h, rfl⟩,
    fun h => ⟨.ldF _, encodeXNN_of_and_F0FF h, rfl⟩, fun h => ⟨.ldB _, encodeXNN_of_and_F0FF h, rfl⟩,
    fun h => ⟨.stRegs _, encodeXNN_of_and_F0FF h, rfl⟩, fun h => ⟨.ldRegs _, encodeXNN_of_and_F0FF h, rfl⟩,
    List.forall_mem_nil _⟩

/-- Rows that match one word are the row of the one instruction it encodes: no two rows overlap (30_encoding.md R75). -/
theorem row_unique {w : Word} {r r' : Word × Word} (hr : r ∈ opcodeRows) (hr' : r' ∈ opcodeRows) (h : w &&& r.1 = r.2)
    (h' : w &&& r'.1 = r'.2) : r = r' := by
  obtain ⟨i, hi, hmask⟩ := exists_encode_of_row w r hr h
  obtain ⟨i', rfl, hmask'⟩ := exists_encode_of_row w r' hr' h'
  obtain rfl := encode_injective hi
  have hfst : r.1 = r'.1 := hmask.symm.trans hmask'
  exact Prod.ext hfst (by rw [← h, ← h', hfst])

/-! ### The step -/

/-- A STEP that is neither halted nor out of range runs the instruction that the two bytes at `pc` decode to, or warns. -/
theorem stepWith_of_fetch (r : Byte) {s : State} {w : Word} (hs : s.fault.cause = none) (hpc : s.pc.toNat + 1 < 4096)
    (hw : joinBytes (s.mem.read s.pc.toNat) (s.mem.read (s.pc.toNat + 1)) = w) :
    (∃ i, decode w = .ok i ∧ stepWith r s = exec i (s.supplyRnd r)) ∨
      (decode w = .error (.unrecognized w) ∧ stepWith r s = .next ((s.supplyRnd r).warn w)) := by
  obtain ⟨hhalt, -⟩ | ⟨-, hout, -⟩ | ⟨-, hin, u, hu, hstep⟩ := stepWith_cases r s
  · exact absurd hs hhalt
  · omega
  · rw [State.fetch_eq, if_pos hin, hw] at hu
    exact Except.ok.inj hu ▸ hstep

theorem stepWith_of_decode (r : Byte) {s : State} {i : Instr} (hs : s.fault.cause = none) (hpc : s.pc.toNat + 1 < 4096)
    (hi : decode (joinBytes (s.mem.read s.pc.toNat) (s.mem.read (s.pc.toNat + 1))) = .ok i) :
    stepWith r s = exec i (s.supplyRnd r) := by
  obtain ⟨j, hj, hstep⟩ | ⟨hbad, -⟩ := stepWith_of_fetch r hs hpc rfl
  · obtain rfl := Except.ok.inj (hi.symm.trans hj)
    exact hstep
  · exact nomatch hi.symm.trans hbad

theorem stepWith_of_unrecognised (r : Byte) {s : State} {w : Word} (hs : s.fault.cause = none) (hpc : s.pc.toNat + 1 < 4096)
    (hw : joinBytes (s.mem.read s.pc.toNat) (s.mem.read (s.pc.toNat + 1)) = w) (hbad : ∀ i, decode w ≠ .ok i) :
    stepWith r s = .next ((s.supplyRnd r).warn w) := by
  obtain ⟨i, hi, -⟩ | ⟨-, hstep⟩ := stepWith_of_fetch r hs hpc hw
  · exact absurd hi (hbad i)
  · exact hstep

/-- A decode warning writes `pc` and `diag` only (30_encoding.md R79). -/
theorem sameArchitecture_warn (r : Byte) (s : State) (w : Word) : SameArchitecture s ((s.supplyRnd r).warn w) :=
  ⟨fun _ _ => rfl, rfl, rfl, ⟨rfl, rfl⟩, fun _ => rfl, rfl, rfl, rfl, rfl⟩

end Sys2Proof.Machine

open Sys2Proof Sys2Proof.Machine

/-- Settles O13: an instruction's fixed fields select its row and its operand fields are its operands. -/
theorem decodeOfEncodeIsTheInstruction : Obligations.DecodeOfEncodeIsTheInstruction :=
  fun _ _ => decode_eq_ok_iff_encode_eq.mpr rfl

/-- Settles O14: in every row the fields that the decoder matches and the ones it hands over are the whole word. -/
theorem encodeOfDecodeIsTheWord : Obligations.EncodeOfDecodeIsTheWord :=
  fun _ _ => decode_eq_ok_iff_encode_eq.mp

/-- Settles O15: the recognised words are the encodings, and a row matches exactly the encodings of its own instruction. -/
theorem recognisedExactlyByTheTable : Obligations.RecognisedExactlyByTheTable := by
  refine ⟨fun w => ⟨?_, ?_⟩, fun w r hr r' hr' => row_unique hr hr', fun w hbad => ?_⟩
  · rintro ⟨i, hi⟩
    obtain rfl := decode_eq_ok_iff_encode_eq.mp hi
    exact exists_row_of_encode i
  · rintro ⟨r, hr, h⟩
    obtain ⟨i, hi, -⟩ := exists_encode_of_row w r hr h
    exact ⟨i, decode_eq_ok_iff_encode_eq.mpr hi⟩
  · cases hw : decode w with
    | ok i => exact absurd hw (hbad i)
    | error e => rw [(decode_eq_error.mp hw).2]

/-- Settles O6: `step` and the command STEP are both `stepWith`. -/
theorem stepRunsTheDecodedInstruction : Obligations.StepRunsTheDecodedInstruction :=
  fun _ _ hs hpc _ hi => ⟨stepWith_of_decode _ hs hpc hi, fun r => stepWith_of_decode r hs hpc hi⟩

/-- Settles O7: the next state is the one that `State.warn` leaves. -/
theorem unrecognisedWordOnlyWarns : Obligations.UnrecognisedWordOnlyWarns :=
  fun r s w hs hpc hw hbad =>
    ⟨_, stepWith_of_unrecognised r hs hpc hw hbad, sameArchitecture_warn r s w, rfl, rfl, rfl⟩

/-- Settles O16, by evaluating the decoder on the words. -/
theorem wordsOfTheSpecDecode : Obligations.WordsOfTheSpecDecode := by
  unfold Obligations.WordsOfTheSpecDecode
  decide

end

section
/-! PROOFS. Control transfer (40_control_flow.md): the opcode of an instruction as a number, the next state of each jump, call, return and
skip, and calls nested with their returns. -/

namespace Sys2Proof.Machine

/-! ### Opcodes as numbers -/

/-- An opcode is the word of its number. -/
theorem encode_eq_ofNat {i : Instr} {w : Nat} (h : (encode i).toNat = w) : encode i = BitVec.ofNat 16 w := by
  rw [← h, BitVec.ofNat_toNat, BitVec.setWidth_eq]

/-- The number of an instruction's encoding is an opcode of it. -/
theorem encodedAs_of_toNat_encode {i : Instr} {w : Nat} (h : (encode i).toNat = w) : EncodedAs i w :=
  decode_eq_ok_iff_encode_eq.mpr (encode_eq_ofNat h)

/-- A word whose fields select no row is unrecognised. -/
theorem unrecognised_of_decodeFields {w : Word} {n : Nat} (h : w.toNat = n) (hrow : decodeFields (fieldOp w) w = none) :
    Unrecognised n := by
  have hw : BitVec.ofNat 16 n = w := by rw [← h, BitVec.ofNat_toNat, BitVec.setWidth_eq]
  rw [Unrecognised, hw]
  exact decode_eq_error.mpr ⟨hrow, rfl⟩

/-- 5XYN with N other than 0 selects no row (40_control_flow.md R95). -/
theorem decodeFive_of_ne_zero {n : Nibble} (hn : n ≠ 0x0#4) (x y : Nibble) : decodeFive x y n = none := by
  unfold decodeFive
  split
  · contradiction
  · rfl

/-- 9XYN with N other than 0 selects no row (40_control_flow.md R96). -/
theorem decodeNine_of_ne_zero {n : Nibble} (hn : n ≠ 0x0#4) (x y : Nibble) : decodeNine x y n = none := by
  unfold decodeNine
  split
  · contradiction
  · rfl

theorem unrecognised_5XYN {n : Nibble} (hn : n ≠ 0x0#4) (x y : Nibble) :
    Unrecognised (0x5000 + 0x100 * x.toNat + 0x10 * y.toNat + n.toNat) :=
  unrecognised_of_decodeFields (toNat_encodeXYN 0x5#4 x y n) <| by
    rw [fieldOp_encodeXYN]
    exact decodeFive_of_ne_zero (by rwa [fieldN_encodeXYN]) _ _

theorem unrecognised_9XYN {n : Nibble} (hn : n ≠ 0x0#4) (x y : Nibble) :
    Unrecognised (0x9000 + 0x100 * x.toNat + 0x10 * y.toNat + n.toNat) :=
  unrecognised_of_decodeFields (toNat_encodeXYN 0x9#4 x y n) <| by
    rw [fieldOp_encodeXYN]
    exact decodeNine_of_ne_zero (by rwa [fieldN_encodeXYN]) _ _

/-! ### Frames -/

/-- A state that differs in `pc` and the call stack only. -/
theorem sameButPcStack_withPcStack (s : State) (a : Word) (l : List Word) :
    SameButPcStack s { s with pc := a, stack := l } :=
  ⟨fun _ _ => rfl, rfl, ⟨rfl, rfl⟩, fun _ => rfl, rfl, rfl, rfl, rfl, rfl, rfl, rfl, rfl⟩

/-- The next state of a jump. -/
theorem sameButPcStack_jump_advance (s : State) (a : Word) : SameButPcStack s (s.advance.jump a) :=
  sameButPcStack_withPcStack s a s.stack

/-- A state that differs in `pc` only. -/
theorem sameButRegs_withPc (s : State) (a : Word) :
    SameRegsBut [] s { s with pc := a } ∧ SameButRegs s { s with pc := a } :=
  ⟨fun _ _ => rfl, rfl, rfl, ⟨rfl, rfl⟩, fun _ => rfl, rfl, rfl, rfl, rfl, rfl, rfl, rfl, rfl⟩

/-- The next state of a skip. -/
theorem sameButRegs_skipIf_advance (s : State) (c : Bool) :
    SameRegsBut [] s (s.advance.skipIf c) ∧ SameButRegs s (s.advance.skipIf c) := by
  rw [State.skipIf_advance]
  exact sameButRegs_withPc s _

/-! ### The jumps and the skips -/

/-- A skip goes no or two bytes beyond the advanced `pc` (40_control_flow.md R99). -/
theorem State.skipIf_advance_pc (s : State) (p : Prop) [Decidable p] :
    (s.advance.skipIf (decide p)).pc = s.pc + 2#16 + (if p then 2#16 else 0#16) := by
  by_cases h : p <;> simp [h]

/-- The register of BNNN as a number, NNN[11:8] in quirks mode (40_control_flow.md R97). -/
theorem State.jumpOffset_eq (s : State) (nnn : Addr12) :
    s.jumpOffset nnn = if s.quirks then s.getV (BitVec.ofNat 4 (nnn.toNat / 256)) else s.getV 0x0#4 := by
  rw [State.jumpOffset, BitVec.extractLsb', Nat.shiftRight_eq_div_pow]

/-- The sum of BNNN is exact: at most 0x0FFF + 0xFF (40_control_flow.md R97). -/
theorem toNat_immAddr_add_zextByte (nnn : Addr12) (b : Byte) : (immAddr nnn + zextByte b).toNat = nnn.toNat + b.toNat := by
  have hnnn := nnn.isLt
  have hb := b.isLt
  rw [BitVec.toNat_add, toNat_immAddr, toNat_zextByte, Nat.mod_eq_of_lt (by omega)]

/-! ### The call and the return -/

/-- The stack has room for `n` more addresses: a finite STACK_DEPTH is not exceeded by them (10_state.md R29). -/
def State.HasRoom (s : State) (n : Nat) : Prop := ∀ d, s.cfg.stackDepth = some d → s.stack.length + n ≤ d

theorem State.HasRoom.stackFull_eq_false {s : State} {n : Nat} (h : s.HasRoom (n + 1)) : s.stackFull = false := by
  rw [← Bool.not_eq_true, State.stackFull_eq_true]
  rintro ⟨d, hd, hle⟩
  have := h d hd
  omega

/-- The state after the call to NNN (40_control_flow.md R92). -/
def State.called (s : State) (nnn : Addr12) : State :=
  { s with pc := immAddr nnn, stack := s.stack ++ [s.pc + 2#16] }

/-- A call leaves room for one address less. -/
theorem State.HasRoom.called {s : State} {n : Nat} (h : s.HasRoom (n + 1)) (nnn : Addr12) : (s.called nnn).HasRoom n := by
  intro d hd
  have := h d hd
  simp only [State.called, List.length_append, List.length_singleton]
  omega

theorem exec_call_of_not_full {s : State} (h : s.stackFull = false) (nnn : Addr12) :
    exec (.call nnn) s = .next (s.called nnn) :=
  if_neg (ne_true_of_eq_false h)

theorem exec_call_of_full {s : State} (h : s.stackFull = true) (nnn : Addr12) :
    exec (.call nnn) s = .next (s.raise .stackOverflow (encode (.call nnn)) 0x0000#16) :=
  if_pos h

theorem exec_ret_of_stack_eq_append {s : State} {rest : List Word} {a : Word} (h : s.stack = rest ++ [a]) :
    exec .ret s = .next { s with pc := a, stack := rest } := by
  show execRet s = _
  simp only [execRet, h, List.getLast?_concat, List.dropLast_concat]

theorem exec_ret_of_stack_eq_nil {s : State} (h : s.stack = []) :
    exec .ret s = .next (s.raise .stackUnderflow (encode .ret) 0x0000#16) := by
  show execRet s = _
  simp only [execRet, h, List.getLast?_nil]

/-! ### Nested calls -/

theorem execAll_cons_of_next {i : Instr} {s t : State} (h : exec i s = .next t) (is : List Instr) :
    execAll (i :: is) s = execAll is t := by
  rw [execAll, h]

theorem execAll_append_of_next {is : List Instr} {s t : State} (h : execAll is s = .next t) (js : List Instr) :
    execAll (is ++ js) s = execAll js t := by
  induction is generalizing s with
  | nil => rw [← Host.Outcome.next.inj h, List.nil_append]
  | cons i is ih =>
    obtain ⟨u, hu, -⟩ := exec_cases i s
    rw [execAll_cons_of_next hu] at h
    rw [List.cons_append, execAll_cons_of_next hu, ih h]

/-- The calls of a list of targets and then as many returns. -/
def callsAndReturns (targets : List Addr12) : List Instr :=
  targets.map Instr.call ++ List.replicate targets.length Instr.ret

/-- The first call and the last return enclose the others. -/
theorem callsAndReturns_cons (target : Addr12) (targets : List Addr12) :
    callsAndReturns (target :: targets) = .call target :: (callsAndReturns targets ++ [.ret]) := by
  simp [callsAndReturns, List.replicate_succ']

/-- A call, a body that leaves all but `pc` as the call left it, and a return: `pc` is the address after the call and all else is as
before (40_control_flow.md R90, R92). -/
theorem execAll_call_body_ret {s : State} (h : s.stackFull = false) {nnn : Addr12} {body : List Instr} {a : Word}
    (hbody : execAll body (s.called nnn) = .next { s.called nnn with pc := a }) :
    execAll (.call nnn :: (body ++ [.ret])) s = .next { s with pc := s.pc + 2#16 } := by
  have hret : exec .ret { s.called nnn with pc := a } = .next { s with pc := s.pc + 2#16 } :=
    exec_ret_of_stack_eq_append rfl
  rw [execAll_cons_of_next (exec_call_of_not_full h nnn), execAll_append_of_next hbody, execAll_cons_of_next hret, execAll]

/-- Where the stack has room for the calls, they and their returns change `pc` only: to the address after the first call. -/
theorem execAll_callsAndReturns (targets : List Addr12) {s : State} (hroom : s.HasRoom targets.length) :
    execAll (callsAndReturns targets) s = .next { s with pc := if targets = [] then s.pc else s.pc + 2#16 } := by
  induction targets generalizing s with
  | nil => rfl
  | cons target targets ih =>
    rw [callsAndReturns_cons, if_neg (List.cons_ne_nil _ _)]
    exact execAll_call_body_ret hroom.stackFull_eq_false (ih (hroom.called target))

end Sys2Proof.Machine

open Sys2Proof Sys2Proof.Machine

/-- Settles O25: a stack with room for one more address is not full, and one whose depth is reached is. -/
theorem callPushesTheReturnAddress : Obligations.CallPushesTheReturnAddress := by
  intro nnn s
  have hnum : (encode (.call nnn)).toNat = 0x2000 + nnn.toNat := toNat_encodeNNN 0x2#4 nnn
  refine ⟨encodedAs_of_toNat_encode hnum, fun hroom => ?_, fun d hd hle hs => ?_⟩
  · have hnext := exec_call_of_not_full (State.HasRoom.stackFull_eq_false (n := 0) hroom) nnn
    exact ⟨_, hnext, toNat_immAddr nnn, rfl, sameButPcStack_withPcStack s _ _⟩
  · have hnext := exec_call_of_full ((State.stackFull_eq_true s).mpr ⟨d, hd, hle⟩) nnn
    rw [State.raise_of_no_fault hs, encode_eq_ofNat hnum] at hnext
    exact ⟨_, hnext, rfl⟩

/-- Settles O28: the sum fits in 16 bits. -/
theorem jumpWithOffsetAddsTheRegister : Obligations.JumpWithOffsetAddsTheRegister := by
  intro nnn s
  refine ⟨encodedAs_of_toNat_encode (toNat_encodeNNN 0xB#4 nnn), _, rfl, ?_, rfl, sameButPcStack_jump_advance s _⟩
  rw [State.jump_pc, toNat_immAddr_add_zextByte, State.jumpOffset_eq]

/-- Settles O29: an unbounded stack has room for any calls. -/
theorem nestedCallsAndReturnsBalance : Obligations.NestedCallsAndReturnsBalance := by
  intro target targets s hdepth
  have hroom : s.HasRoom (target :: targets).length := fun d hd => nomatch hdepth.symm.trans hd
  exact ⟨_, execAll_callsAndReturns _ hroom, rfl, rfl, sameButPcStack_withPcStack s _ s.stack⟩

/-- Settles O60: the one depth that room is asked of is the given one. -/
theorem nestedCallsWithinAFiniteDepthBalance : Obligations.NestedCallsWithinAFiniteDepthBalance := by
  intro target targets d s hdepth hle
  have hroom : s.HasRoom (target :: targets).length := fun e he => Option.some.inj (hdepth.symm.trans he) ▸ hle
  exact ⟨_, execAll_callsAndReturns _ hroom, rfl, rfl, sameButPcStack_withPcStack s _ s.stack⟩

/-- Settles O23: the top of the stack is its last element. -/
theorem returnPopsTheStack : Obligations.ReturnPopsTheStack := by
  refine ⟨encodedAs_of_toNat_encode rfl, fun s rest a hstack => ?_, fun s hs hempty => ?_⟩
  · exact ⟨_, exec_ret_of_stack_eq_append hstack, rfl, rfl, sameButPcStack_withPcStack s a rest⟩
  · have hnext := exec_ret_of_stack_eq_nil hempty
    rw [State.raise_of_no_fault hs] at hnext
    exact ⟨_, hnext, rfl⟩

/-- Settles O24: NNN zero-extended is the number NNN. -/
theorem jumpSetsThePc : Obligations.JumpSetsThePc :=
  fun nnn s => ⟨encodedAs_of_toNat_encode (toNat_encodeNNN 0x1#4 nnn), _, rfl, toNat_immAddr nnn, rfl,
    sameButPcStack_jump_advance s _⟩

/-- Settles O26: 4XNN skips on the negated condition. -/
theorem skipsOnAnImmediate : Obligations.SkipsOnAnImmediate := by
  intro x nn s
  exact ⟨encodedAs_of_toNat_encode (toNat_encodeXNN 0x3#4 x nn), encodedAs_of_toNat_encode (toNat_encodeXNN 0x4#4 x nn),
    ⟨_, rfl, s.skipIf_advance_pc _, sameButRegs_skipIf_advance s _⟩,
    ⟨_, rfl, (s.skipIf_advance_pc _).trans (by rw [ite_not]), sameButRegs_skipIf_advance s _⟩⟩

/-- Settles O27: as O26, and N other than 0 matches no row of field 1 = 5 or 9. -/
theorem skipsOnTwoRegisters : Obligations.SkipsOnTwoRegisters := by
  intro x y s
  exact ⟨encodedAs_of_toNat_encode (toNat_encodeXYN 0x5#4 x y 0x0#4),
    encodedAs_of_toNat_encode (toNat_encodeXYN 0x9#4 x y 0x0#4),
    fun n hn => ⟨unrecognised_5XYN hn x y, unrecognised_9XYN hn x y⟩,
    ⟨_, rfl, s.skipIf_advance_pc _, sameButRegs_skipIf_advance s _⟩,
    ⟨_, rfl, (s.skipIf_advance_pc _).trans (by rw [ite_not]), sameButRegs_skipIf_advance s _⟩⟩

end

section
/-! PROOFS. The ALU (41_alu.md): the next state of an instruction that puts a result in VX, with or without a flag for VF, the results and
the flags as the spec's numbers, and CXNN in a STEP. -/

namespace Sys2Proof.Machine

/-! ### Opcodes and frames -/

/-- An instruction with the opcode 8XYN, where `base` is the number 800N. -/
theorem encodedAs_8XYN {i : Instr} {x y n : Nibble} {base : Nat} (h : encode i = encodeXYN 0x8#4 x y n)
    (hbase : base = 0x8000 + n.toNat) : EncodedAs i (base + 0x100 * x.toNat + 0x10 * y.toNat) := by
  refine encodedAs_of_toNat_encode ?_
  have hnum : (encodeXYN 0x8#4 x y n).toNat = 0x8000 + 0x100 * x.toNat + 0x10 * y.toNat + n.toNat :=
    toNat_encodeXYN 0x8#4 x y n
  rw [h, hnum]
  omega

/-- A state that differs in `pc` and the general registers only. -/
theorem sameButRegs_withPcRegs (s : State) (a : Word) (v : Vector Byte 16) : SameButRegs s { s with pc := a, v := v } :=
  ⟨rfl, rfl, ⟨rfl, rfl⟩, fun _ => rfl, rfl, rfl, rfl, rfl, rfl, rfl, rfl, rfl⟩

/-! ### The next state of an ALU instruction -/

/-- An instruction that advances and puts a result in VX: no flag. -/
theorem exec_next_setV {i : Instr} {s : State} {x : Nibble} {b : Byte} (h : exec i s = .next (s.advance.setV x b)) :
    ∃ t, exec i s = .next t ∧ t.getV x = b ∧ SameRegsBut [x] s t ∧ t.pc = s.pc + 2#16 ∧ SameButRegs s t :=
  ⟨_, h, (State.getV_setV ..).trans (if_pos rfl),
    fun _ hz => (State.getV_setV ..).trans (if_neg (List.ne_of_not_mem_cons hz)), rfl, sameButRegs_withPcRegs s _ _⟩

/-- The writeback leaves the registers as 10_state.md R24 words it. -/
theorem State.getV_writeBack_advance (s : State) (x z : Nibble) (b : Byte) (f : Option Bool) :
    (s.advance.writeBack x b f).getV z = afterWrites s x z b (f.map flagByte) := by
  by_cases hboth : z = vf ∧ x = vf
  · obtain ⟨rfl, rfl⟩ := hboth
    cases f with
    | none => exact s.advance.getV_setV vf vf b
    | some f => exact s.advance.getV_vf_writeBack_vf b f
  · have hne (hz : z = vf) : ¬z = x := fun hzx => hboth ⟨hz, hzx.symm.trans hz⟩
    refine (State.getV_writeBack ..).trans (Eq.trans ?_ (if_neg hboth).symm)
    cases f with
    | none => exact congrArg (ite (z = x) b) (ite_self _).symm
    | some f =>
      cases s.advance.cfg.vfWriteOrder with
      | flagLast => exact ite_ite_comm _ _ _ _ hne
      | resultLast => rfl

/-- An instruction that advances and writes back a result for VX and perhaps a flag for VF (41_alu.md R123). -/
theorem exec_next_writeBack {i : Instr} {s : State} {x : Nibble} {b result : Byte} {f : Option Bool} {flag : Option Byte}
    (h : exec i s = .next (s.advance.writeBack x b f)) (hb : b = result) (hf : f.map flagByte = flag) :
    ∃ t, exec i s = .next t ∧ (∀ z, t.getV z = afterWrites s x z result flag) ∧ t.pc = s.pc + 2#16 ∧ SameButRegs s t := by
  subst hb hf
  refine ⟨_, h, fun z => s.getV_writeBack_advance x z b f, State.writeBack_pc .., ?_⟩
  rw [State.writeBack_eq]
  exact sameButRegs_withPcRegs s _ _

/-! ### Results and flags as numbers -/

/-- The sum wraps modulo 256 (41_alu.md R124). -/
theorem byte_add_eq_ofNat (a b : Byte) : a + b = BitVec.ofNat 8 ((a.toNat + b.toNat) % 256) :=
  (BitVec.toNat_eq_nat.mp (BitVec.toNat_add a b)).2

/-- The difference wraps modulo 256 (41_alu.md R124). -/
theorem byte_sub_eq_ofNat (a b : Byte) : a - b = BitVec.ofNat 8 ((a.toNat + 256 - b.toNat) % 256) := by
  have := b.isLt
  have hsub : (a - b).toNat = (a.toNat + 256 - b.toNat) % 256 := by
    rw [BitVec.toNat_sub]
    omega
  exact (BitVec.toNat_eq_nat.mp hsub).2

/-- The carry of 8XY4 as the byte for VF (41_alu.md R116). -/
theorem map_flagByte_carryFlag (a b : Byte) :
    (carryFlag a b).map flagByte = if a.toNat + b.toNat > 255 then some 0x01#8 else none :=
  apply_ite (Option.map flagByte) _ _ _

/-- The borrow flag as the byte for VF: under REFERENCE always 1 (41_alu.md R122). -/
theorem flagByte_borrowFlag (mode : BorrowFlagMode) (p q : Byte) :
    flagByte (borrowFlag mode p q) = if mode = .reference ∨ p.toNat ≥ q.toNat then 0x01#8 else 0x00#8 := by
  cases mode <;> simp [borrowFlag, flagByte]

theorem byte_shiftRight_one_eq_ofNat (a : Byte) : a >>> 1 = BitVec.ofNat 8 (a.toNat / 2) :=
  (BitVec.toNat_eq_nat.mp ((BitVec.toNat_ushiftRight a 1).trans (Nat.shiftRight_eq_div_pow a.toNat 1))).2

theorem byte_shiftLeft_one_eq_ofNat (a : Byte) : a <<< 1 = BitVec.ofNat 8 (a.toNat * 2 % 256) := by
  have hshift : (a <<< 1).toNat = a.toNat * 2 % 256 := by
    rw [BitVec.toNat_shiftLeft, Nat.shiftLeft_eq]
  exact (BitVec.toNat_eq_nat.mp hshift).2

/-- A flag is the number 0 or 1. -/
theorem flagByte_eq_ofNat (f : Bool) : flagByte f = BitVec.ofNat 8 f.toNat := by
  cases f <;> rfl

/-- A bit of a byte as the byte for VF. -/
theorem flagByte_getLsbD (a : Byte) (k : Nat) : flagByte (a.getLsbD k) = BitVec.ofNat 8 (a.toNat / 2 ^ k % 2) := by
  rw [flagByte_eq_ofNat, BitVec.getLsbD, Nat.toNat_testBit]

/-- The bit that a right shift loses is the remainder (41_alu.md R118). -/
theorem flagByte_bit0 (a : Byte) : flagByte (a.getLsbD 0) = BitVec.ofNat 8 (a.toNat % 2) := by
  rw [flagByte_getLsbD, Nat.pow_zero, Nat.div_one]

/-- The bit that a left shift loses is the quotient, since it is the highest (41_alu.md R120). -/
theorem flagByte_bit7 (a : Byte) : flagByte (a.getLsbD 7) = BitVec.ofNat 8 (a.toNat / 128) := by
  have hquot : a.toNat / 128 < 2 := by
    have := a.isLt
    omega
  exact (flagByte_getLsbD a 7).trans (congrArg _ (Nat.mod_eq_of_lt hquot))

/-! ### The instruction a STEP runs -/

/-- A STEP that fetches an instruction's encoding runs the instruction (30_encoding.md R70). -/
theorem stepWith_of_fetch_encode (r : Byte) {s : State} {i : Instr} (hs : s.fault.cause = none)
    (hfetch : s.fetch = .ok (encode i)) : stepWith r s = exec i (s.supplyRnd r) := by
  have hhalted : s.halted = false := (State.halted_eq_false s).mpr hs
  have hdecode : decode (encode i) = .ok i := decode_eq_ok_iff_encode_eq.mpr rfl
  simp [stepWith, hhalted, hfetch, hdecode]

end Sys2Proof.Machine

open Sys2Proof Sys2Proof.Machine

/-- Settles O32: the exact sum decides the carry. -/
theorem addRegisterSetsTheCarry : Obligations.AddRegisterSetsTheCarry :=
  fun _ _ _ => ⟨encodedAs_8XYN rfl rfl, exec_next_writeBack rfl (byte_add_eq_ofNat _ _) (map_flagByte_carryFlag _ _)⟩

/-- Settles O33: 8XY7 is 8XY5 with the operands exchanged. -/
theorem subtractionsSetTheBorrowFlag : Obligations.SubtractionsSetTheBorrowFlag := by
  intro x y s
  have hflag (p q : Byte) := congrArg some (flagByte_borrowFlag s.cfg.borrowFlagMode p q)
  exact ⟨encodedAs_8XYN rfl rfl, encodedAs_8XYN rfl rfl,
    exec_next_writeBack rfl (byte_sub_eq_ofNat _ _) (hflag _ _),
    exec_next_writeBack rfl (byte_sub_eq_ofNat _ _) (hflag _ _)⟩

/-- Settles O34: each shift moves one bit of its source out of the byte, into VF. -/
theorem shiftsPutTheLostBitInTheFlag : Obligations.ShiftsPutTheLostBitInTheFlag := by
  intro x y s
  refine ⟨encodedAs_8XYN rfl rfl, encodedAs_8XYN rfl rfl, ?_⟩
  rintro _ rfl
  exact ⟨exec_next_writeBack rfl (byte_shiftRight_one_eq_ofNat _) (congrArg some (flagByte_bit0 _)),
    exec_next_writeBack rfl (byte_shiftLeft_one_eq_ofNat _) (congrArg some (flagByte_bit7 _))⟩

/-- Settles O36: CXNN reads the byte that the STEP supplied. -/
theorem randomIsMaskedByTheImmediate : Obligations.RandomIsMaskedByTheImmediate := by
  intro x nn s
  refine ⟨encodedAs_of_toNat_encode (toNat_encodeXNN 0xC#4 x nn), exec_next_setV rfl, fun r hs hfetch => ?_⟩
  obtain ⟨t, hnext, hx, hregs, hpc, -⟩ := exec_next_setV (i := .rnd x nn) (s := s.supplyRnd r) rfl
  exact ⟨t, (stepWith_of_fetch_encode r hs hfetch).trans hnext, hx, hregs, hpc⟩

/-- Settles O30: the sum of bytes wraps modulo 256. -/
theorem loadAndAddImmediate : Obligations.LoadAndAddImmediate := by
  intro x nn s
  refine ⟨encodedAs_of_toNat_encode (toNat_encodeXNN 0x6#4 x nn), encodedAs_of_toNat_encode (toNat_encodeXNN 0x7#4 x nn),
    exec_next_setV rfl, ?_⟩
  obtain ⟨t, hnext, hx, hframe⟩ := exec_next_setV (i := .addByte x nn) (s := s) rfl
  exact ⟨t, hnext, hx ▸ BitVec.toNat_add .., hframe⟩

/-- Settles O31: each of the four puts its result in VX and nothing else. -/
theorem copyAndLogicOfTwoRegisters : Obligations.CopyAndLogicOfTwoRegisters :=
  fun _ _ _ => ⟨encodedAs_8XYN rfl rfl, encodedAs_8XYN rfl rfl, encodedAs_8XYN rfl rfl, encodedAs_8XYN rfl rfl,
    exec_next_setV rfl, exec_next_setV rfl, exec_next_setV rfl, exec_next_setV rfl⟩

end

section
/-! PROOFS. The index register and memory instructions (42_index_memory.md): the frame of a write of I, of a guarded store and of a guarded
load, the digits and the registers that the stores leave in memory, and the only two writers of memory. -/

namespace Sys2Proof.Machine

/-! ### Opcodes -/

/-- The number of an opcode of format X with field 1 = F, where `base` is the number F0NN. -/
theorem toNat_encode_FXNN {i : Instr} {x : Nibble} {nn : Byte} {base : Nat} (h : encode i = encodeXNN 0xF#4 x nn)
    (hbase : base = 0xF000 + nn.toNat) : (encode i).toNat = base + 0x100 * x.toNat := by
  have hnum : (encodeXNN 0xF#4 x nn).toNat = 0xF000 + 0x100 * x.toNat + nn.toNat := toNat_encodeXNN 0xF#4 x nn
  rw [h, hnum]
  omega

/-! ### Writes of I -/

/-- A state that differs in `pc`, the general registers and I only. -/
theorem sameRest_of_eq_withPcRegsIndex {s t : State} {a j : Word} {v : Vector Byte 16}
    (h : t = { s with pc := a, v := v, index := j }) :
    t.stack = s.stack ∧ SameTimers s t ∧ SameMem s t ∧ SameDisplay s t ∧ SameControl s t := by
  subst h
  exact ⟨rfl, ⟨rfl, rfl⟩, fun _ => rfl, rfl, rfl, rfl, rfl, rfl, rfl, rfl, rfl⟩

/-- Above 0xFFF the sum of FX1E wraps modulo 0x1000 (42_index_memory.md R141). -/
theorem State.toNat_index_addToIndex_of_gt {s : State} {a : Byte} (h : s.index.toNat + a.toNat > 0x0FFF) :
    (s.addToIndex a).index.toNat = (s.index.toNat + a.toNat) % 0x1000 := by
  rw [State.index_addToIndex, if_pos h, BitVec.toNat_ofNat]
  omega

/-- Up to 0xFFF the sum of FX1E is exact (42_index_memory.md R141). -/
theorem State.toNat_index_addToIndex_of_le {s : State} {a : Byte} (h : s.index.toNat + a.toNat ≤ 0x0FFF) :
    (s.addToIndex a).index.toNat = s.index.toNat + a.toNat := by
  rw [State.index_addToIndex, if_neg (by omega), BitVec.toNat_ofNat]
  omega

/-! ### Guarded stores and loads -/

/-- A data instruction with an address out of range changes only the latch (20_memory.md R57). -/
theorem exec_onlyLatch_of_outside {i : Instr} {s u : State} {n k w : Nat} (h : exec i s = s.withDataRange (encode i) n u)
    (hk : k < n) (hw : (encode i).toNat = w) (hout : 4096 ≤ s.index.toNat + k) (hs : s.fault.cause = none) :
    ∃ t, exec i s = .next t ∧
      OnlyLatch s t { cause := some .dataOutOfRange, pc := s.pc, opcode := BitVec.ofNat 16 w,
                      addr := BitVec.ofNat 16 (max s.index.toNat 4096) } := by
  rw [← encode_eq_ofNat hw]
  exact ⟨_, h.trans (State.withDataRange_of_outside hk hout hs _ _), rfl⟩

/-- A store from I changes `pc` and the bytes it stores (42_index_memory.md R143, R144). -/
theorem frame_of_eq_storeAtIndex_advance {s t : State} {bytes : List Byte} {n : Nat}
    (h : t = s.advance.storeAtIndex bytes) (hn : bytes.length = n) :
    SameMemOutside s.index.toNat n s t ∧ t.pc = s.pc + 2#16 ∧ SameRegsBut [] s t ∧ t.index = s.index ∧
      t.stack = s.stack ∧ SameTimers s t ∧ SameDisplay s t ∧ SameControl s t := by
  subst h hn
  exact ⟨fun a ha => (s.mem.read_writeBytes s.index.toNat bytes a).trans (if_neg ha), rfl, fun _ _ => rfl, rfl, rfl,
    ⟨rfl, rfl⟩, rfl, rfl, rfl, rfl, rfl, rfl, rfl, rfl⟩

/-- The bytes of FX33 as numbers (42_index_memory.md R143). -/
theorem Memory.toNat_read_writeBytes_bcdDigits (m : Memory) (base : Nat) (b : Byte) :
    ((m.writeBytes base (bcdDigits b)).read base).toNat = b.toNat / 100 ∧
      ((m.writeBytes base (bcdDigits b)).read (base + 1)).toNat = b.toNat / 10 % 10 ∧
      ((m.writeBytes base (bcdDigits b)).read (base + 2)).toNat = b.toNat % 10 := by
  have hb := b.isLt
  simp only [Memory.read_writeBytes_bcdDigits, BitVec.toNat_ofNat, if_true, if_false, Nat.add_eq_left, Nat.add_left_cancel_iff,
    one_ne_zero, OfNat.ofNat_ne_zero, OfNat.ofNat_ne_one]
  omega

/-- The byte of FX55 for Vz (42_index_memory.md R144). -/
theorem State.read_writeBytes_regsUpTo_add (s : State) (m : Memory) (base : Nat) {x z : Nibble} (h : z.toNat ≤ x.toNat) :
    (m.writeBytes base (s.regsUpTo x)).read (base + z.toNat) = s.getV z := by
  rw [State.read_writeBytes_regsUpTo, if_pos (by omega), Nat.add_sub_cancel_left, BitVec.ofNat_toNat, BitVec.setWidth_eq]

/-! ### The writers of memory -/

theorem Completes.writer_of_mem_ne {i : Instr} {s t : State} (h : Completes s i t) (hm : t.mem ≠ s.mem) :
    ∃ x, i = .ldB x ∨ i = .stRegs x := by
  cases h with
  | ldB x => exact ⟨x, .inl rfl⟩
  | stRegs x => exact ⟨x, .inr rfl⟩
  | _ => exact absurd rfl hm

end Sys2Proof.Machine

open Sys2Proof Sys2Proof.Machine

/-- Settles O17: a fault writes the latch alone, and of the completed instructions only the two stores write memory. -/
theorem onlyBcdAndBlockStoreWriteMemory : Obligations.OnlyBcdAndBlockStoreWriteMemory := by
  rintro i s t h ⟨a, ha⟩
  have hm : t.mem ≠ s.mem := fun heq => ha (congrArg (Memory.read · a) heq)
  obtain hc | ⟨c, b, -, rfl⟩ := exec_ends h
  · exact hc.writer_of_mem_ne hm
  · exact absurd (s.raise_mem c _ b) hm

/-- Settles O38: the sum decides between the wrap, with VF, and the exact value, with no register written. -/
theorem addToIndexWrapsAtTwelveBits : Obligations.AddToIndexWrapsAtTwelveBits := by
  intro x s
  have hregs (z : Nibble) := s.advance.getV_addToIndex (s.getV x) z
  obtain ⟨hstack, htimers, hmem, hdisplay, hcontrol⟩ :=
    sameRest_of_eq_withPcRegsIndex (s := s) (s.advance.addToIndex_eq (s.getV x))
  refine ⟨encodedAs_of_toNat_encode (toNat_encode_FXNN rfl rfl), _, rfl, State.addToIndex_pc .., hstack, htimers, hmem,
    hdisplay, hcontrol, fun hwrap => ⟨?_, ?_, fun z hz => ?_⟩, fun hexact => ⟨?_, fun z _ => ?_⟩⟩
  · exact State.toNat_index_addToIndex_of_gt (s := s.advance) hwrap
  · exact (hregs vf).trans (if_pos ⟨hwrap, rfl⟩)
  · exact (hregs z).trans (if_neg fun h => List.ne_of_not_mem_cons hz h.2)
  · exact State.toNat_index_addToIndex_of_le (s := s.advance) hexact
  · exact (hregs z).trans (if_neg fun h => Nat.not_lt.mpr hexact h.1)

/-- Settles O39: FX29 writes the glyph address in I, exact where it fits in 16 bits. -/
theorem glyphAddressIsBasePlusStrides : Obligations.GlyphAddressIsBasePlusStrides :=
  fun _ _ => ⟨encodedAs_of_toNat_encode (toNat_encode_FXNN rfl rfl), _, rfl, toNat_glyphAddr, rfl, fun _ _ => rfl,
    sameRest_of_eq_withPcRegsIndex rfl⟩

/-- Settles O40: in range the three digits are stored, out of range the access faults. -/
theorem bcdStoresThreeDigits : Obligations.BcdStoresThreeDigits := by
  intro x s
  have hop : (encode (.ldB x)).toNat = 0xF033 + 0x100 * x.toNat := toNat_encode_FXNN rfl rfl
  refine ⟨encodedAs_of_toNat_encode hop, fun hin => ?_, exec_onlyLatch_of_outside rfl (by decide) hop⟩
  obtain ⟨hhundreds, htens, hunits⟩ := s.mem.toNat_read_writeBytes_bcdDigits s.index.toNat (s.getV x)
  exact ⟨_, State.withDataRange_of_le (by omega) _ _, hhundreds, htens, hunits, frame_of_eq_storeAtIndex_advance rfl rfl⟩

/-- Settles O41: in range the registers are stored, out of range the access faults. -/
theorem blockStoreWritesTheRegisters : Obligations.BlockStoreWritesTheRegisters := by
  intro x s
  have hop : (encode (.stRegs x)).toNat = 0xF055 + 0x100 * x.toNat := toNat_encode_FXNN rfl rfl
  refine ⟨encodedAs_of_toNat_encode hop, fun hin => ?_, exec_onlyLatch_of_outside rfl (Nat.lt_succ_self _) hop⟩
  exact ⟨_, State.withDataRange_of_le (by omega) _ _, fun z => s.read_writeBytes_regsUpTo_add s.mem s.index.toNat,
    frame_of_eq_storeAtIndex_advance rfl (s.length_regsUpTo x)⟩

/-- Settles O42: in range the registers are loaded, out of range the access faults. -/
theorem blockLoadReadsTheRegisters : Obligations.BlockLoadReadsTheRegisters := by
  intro x s
  have hop : (encode (.ldRegs x)).toNat = 0xF065 + 0x100 * x.toNat := toNat_encode_FXNN rfl rfl
  refine ⟨encodedAs_of_toNat_encode hop, fun hin => ?_, exec_onlyLatch_of_outside rfl (Nat.lt_succ_self _) hop⟩
  exact ⟨_, State.withDataRange_of_le (by omega) _ _, s.advance.getV_loadRegsUpTo x, rfl, sameButRegs_withPcRegs s _ _⟩

/-- Settles O44: the bytes are those of O40, and hundreds, tens and units of a number below 1000 rebuild it. -/
theorem bcdDigitsRebuildTheValue : Obligations.BcdDigitsRebuildTheValue := by
  intro x s t hin h
  obtain ⟨-, hstored, -⟩ := bcdStoresThreeDigits x s
  obtain ⟨u, hu, hhundreds, htens, hunits, -⟩ := hstored hin
  obtain rfl : t = u := Host.Outcome.next.inj (h.symm.trans hu)
  have hbyte := (s.getV x).isLt
  refine ⟨by omega, fun k hk => ?_⟩
  obtain rfl | rfl | rfl : k = 0 ∨ k = 1 ∨ k = 2 := by omega
  · rw [Nat.add_zero]
    omega
  · omega
  · omega

/-- Settles O45: FX65 reads, by O42, the bytes that FX55 stored, by O41, at the I that it left. -/
theorem blockStoreThenLoadRestores : Obligations.BlockStoreThenLoadRestores := by
  intro x s t u hin h hmem hindex
  obtain ⟨-, hstore, -⟩ := blockStoreWritesTheRegisters x s
  obtain ⟨t', ht', hbytes, -, -, -, hkept, -⟩ := hstore hin
  obtain rfl : t = t' := Host.Outcome.next.inj (h.symm.trans ht')
  have hbase : u.index = s.index := hindex.trans hkept
  obtain ⟨-, hload, -⟩ := blockLoadReadsTheRegisters x u
  obtain ⟨w, hw, hregs, -⟩ := hload (hbase ▸ hin)
  refine ⟨w, hw, fun z => (hregs z).trans ?_⟩
  by_cases hz : z.toNat ≤ x.toNat
  · rw [if_pos hz, if_pos hz, hmem, hbase, hbytes z hz]
  · rw [if_neg hz, if_neg hz]

/-- Settles O37: ANNN writes I and advances. -/
theorem loadIndexImmediate : Obligations.LoadIndexImmediate :=
  fun nnn _ => ⟨encodedAs_of_toNat_encode (toNat_encodeNNN 0xA#4 nnn), _, rfl, toNat_immAddr nnn, rfl, fun _ _ => rfl,
    sameRest_of_eq_withPcRegsIndex rfl⟩

end

section
/-! PROOFS. The display instructions (43_display.md): the frame of CLS, DXYN's next state in closed form (the sprite bit that lands on each
cell, the XOR, the collision), and the second draw of the same sprite. -/

namespace Sys2Proof.Machine

/-! ### The collision bit as a byte -/

theorem flagByte_eq_one_iff {f : Bool} : flagByte f = 0x01#8 ↔ f = true := by
  cases f <;> decide

theorem flagByte_eq_zero_iff {f : Bool} : flagByte f = 0x00#8 ↔ f = false := by
  cases f <;> decide

/-! ### The sprite bit that lands on a cell -/

/-- A set bit lands on a cell exactly when it is bit `7 - c` of a row `r` of the sprite and the cell is `c` columns and `r` rows from the
sprite's corner (43_display.md R163). -/
theorem spriteBit_eq_true_iff {rows : Nat → Byte} {x0 y0 n cx cy : Nat} :
    spriteBit rows x0 y0 n cx cy = true ↔
      ∃ r c, r < n ∧ c < 8 ∧ cx = x0 + c ∧ cy = y0 + r ∧ (rows r).getLsbD (7 - c) = true := by
  simp only [spriteBit, Bool.and_eq_true, decide_eq_true_eq]
  constructor
  · rintro ⟨hin, hbit⟩
    exact ⟨cy - y0, cx - x0, by omega, by omega, by omega, by omega, hbit⟩
  · rintro ⟨r, c, hr, hc, rfl, rfl, hbit⟩
    rw [Nat.add_sub_cancel_left, Nat.add_sub_cancel_left]
    exact ⟨by omega, hbit⟩

/-- The bit of DXYN's sprite that lands on the cell `(cx, cy)`, false where none does (43_display.md R161, R163). -/
def State.landingBit (s : State) (x y n : Nibble) (cx cy : Nat) : Bool :=
  spriteBit s.readAtIndex ((s.getV x).toNat % displayWidth) ((s.getV y).toNat % displayHeight) n.toNat cx cy

/-- The sprite and where it lands are given by memory, I and the two coordinates. -/
theorem State.landingBit_congr {s u : State} {x y : Nibble} (hmem : u.mem = s.mem) (hindex : u.index = s.index)
    (hx : u.getV x = s.getV x) (hy : u.getV y = s.getV y) (n : Nibble) : u.landingBit x y n = s.landingBit x y n := by
  have hrows : u.readAtIndex = s.readAtIndex := funext fun k => by rw [readAtIndex, readAtIndex, hmem, hindex]
  funext cx cy
  rw [landingBit, landingBit, hrows, hx, hy]

/-! ### The state after a draw -/

/-- The state after DXYN with its range in memory (43_display.md R161). -/
def State.drawn (s : State) (x y n : Nibble) : State :=
  (s.advance.setDisplay (s.drawSprite x y n).display).setV vf (flagByte (s.drawSprite x y n).coll)

theorem exec_drw_of_inMemory {s : State} {n : Nibble} (hin : n = 0x0#4 ∨ s.index.toNat + n.toNat ≤ 4096) (x y : Nibble) :
    exec (.drw x y n) s = .next (s.drawn x y n) := by
  have hrange : n.toNat = 0 ∨ s.index.toNat + n.toNat ≤ 4096 := hin.imp_left (congrArg BitVec.toNat)
  exact (s.withDataRange_eq _ _ _).trans (congrArg _ (if_pos hrange))

/-- Each cell takes the XOR of the bit that lands on it (43_display.md R162). -/
theorem State.cell_drawn (s : State) (x y n : Nibble) {cx cy : Nat} (hcx : cx < 64) (hcy : cy < 32) :
    (s.drawn x y n).display.cell cx cy = (s.display.cell cx cy ^^ s.landingBit x y n cx cy) :=
  drawRows_cell _ _ _ _ _ _ _ hcx hcy

theorem State.cell_drawn_of_landing {s : State} {x y n : Nibble} {cx cy : Nat} (hcx : cx < 64) (hcy : cy < 32)
    (h : s.landingBit x y n cx cy = true) : (s.drawn x y n).display.cell cx cy = !s.display.cell cx cy := by
  rw [cell_drawn _ _ _ _ hcx hcy, h, Bool.xor_true]

theorem State.cell_drawn_of_not_landing {s : State} {x y n : Nibble} {cx cy : Nat} (hcx : cx < 64) (hcy : cy < 32)
    (h : ¬ s.landingBit x y n cx cy = true) : (s.drawn x y n).display.cell cx cy = s.display.cell cx cy := by
  rw [cell_drawn _ _ _ _ hcx hcy, Bool.eq_false_of_not_eq_true h, Bool.xor_false]

/-- The collision bit: a set bit landed on a lit cell (43_display.md R162). -/
theorem State.coll_drawSprite_iff (s : State) (x y n : Nibble) :
    (s.drawSprite x y n).coll = true ↔
      ∃ cx cy, cx < 64 ∧ cy < 32 ∧ s.landingBit x y n cx cy = true ∧ s.display.cell cx cy = true :=
  (drawRows_coll ..).trans (or_iff_right Bool.false_ne_true)

/-- VF is the collision bit (43_display.md R161). -/
theorem State.getV_vf_drawn (s : State) (x y n : Nibble) :
    (s.drawn x y n).getV vf = flagByte (s.drawSprite x y n).coll :=
  (State.getV_setV ..).trans (if_pos rfl)

theorem State.getV_vf_drawn_eq_one_iff (s : State) (x y n : Nibble) :
    (s.drawn x y n).getV vf = 0x01#8 ↔
      ∃ cx cy, cx < 64 ∧ cy < 32 ∧ s.landingBit x y n cx cy = true ∧ s.display.cell cx cy = true := by
  rw [getV_vf_drawn, flagByte_eq_one_iff, coll_drawSprite_iff]

theorem State.getV_vf_drawn_eq_zero_iff (s : State) (x y n : Nibble) :
    (s.drawn x y n).getV vf = 0x00#8 ↔
      ∀ cx cy, cx < 64 → cy < 32 → s.landingBit x y n cx cy = true → s.display.cell cx cy = false := by
  rw [getV_vf_drawn, flagByte_eq_zero_iff, ← Bool.not_eq_true, coll_drawSprite_iff]
  simp only [not_exists, not_and, Bool.not_eq_true]

/-- VF is 1 or 0 after a draw. -/
theorem State.getV_vf_drawn_eq_one_or_zero (s : State) (x y n : Nibble) :
    (s.drawn x y n).getV vf = 0x01#8 ∨ (s.drawn x y n).getV vf = 0x00#8 := by
  rw [getV_vf_drawn, flagByte_eq_one_iff, flagByte_eq_zero_iff]
  exact Bool.eq_false_or_eq_true _

/-- A draw changes `pc`, VF and the display only. -/
theorem State.frame_drawn (s : State) (x y n : Nibble) :
    SameRegsBut [vf] s (s.drawn x y n) ∧ (s.drawn x y n).pc = s.pc + 2#16 ∧ (s.drawn x y n).index = s.index ∧
      (s.drawn x y n).stack = s.stack ∧ SameTimers s (s.drawn x y n) ∧ SameMem s (s.drawn x y n) ∧
      SameControl s (s.drawn x y n) :=
  ⟨fun _ hz => (State.getV_setV ..).trans (if_neg (List.ne_of_not_mem_cons hz)), rfl, rfl, rfl, ⟨rfl, rfl⟩, fun _ => rfl,
    rfl, rfl, rfl, rfl, rfl, rfl, rfl⟩

/-! ### The second draw -/

/-- A draw of the bits that an earlier draw has drawn restores the display: XOR with the same bit twice (43_display.md R164). -/
theorem State.display_drawn_drawn {s u : State} {x y n : Nibble} (hdisplay : u.display = (s.drawn x y n).display)
    (hbits : u.landingBit x y n = s.landingBit x y n) : (u.drawn x y n).display = s.display := by
  refine Display.ext_cell _ _ fun cx cy hcx hcy => ?_
  rw [cell_drawn _ _ _ _ hcx hcy, hdisplay, cell_drawn _ _ _ _ hcx hcy, hbits, Bool.xor_assoc, Bool.xor_self, Bool.xor_false]

/-- After a draw, a set bit has landed on a lit cell exactly when the draw lit the cell (43_display.md R162). -/
theorem State.landingBit_and_lit_drawn_iff (s : State) (x y n : Nibble) {cx cy : Nat} (hcx : cx < 64) (hcy : cy < 32) :
    (s.landingBit x y n cx cy = true ∧ (s.drawn x y n).display.cell cx cy = true) ↔
      (s.display.cell cx cy = false ∧ (s.drawn x y n).display.cell cx cy = true) := by
  rw [cell_drawn _ _ _ _ hcx hcy]
  cases s.display.cell cx cy <;> cases s.landingBit x y n cx cy <;> decide

/-- A draw of the bits that an earlier draw has drawn sets VF to 1 exactly when the earlier one lit a cell (43_display.md R164). -/
theorem State.getV_vf_drawn_drawn_eq_one_iff {s u : State} {x y n : Nibble}
    (hdisplay : u.display = (s.drawn x y n).display) (hbits : u.landingBit x y n = s.landingBit x y n) :
    (u.drawn x y n).getV vf = 0x01#8 ↔
      ∃ cx cy, cx < 64 ∧ cy < 32 ∧ s.display.cell cx cy = false ∧ (s.drawn x y n).display.cell cx cy = true := by
  rw [getV_vf_drawn_eq_one_iff, hdisplay, hbits]
  refine exists₂_congr fun cx cy => and_congr_right fun hcx => and_congr_right fun hcy => ?_
  exact s.landingBit_and_lit_drawn_iff x y n hcx hcy

end Sys2Proof.Machine

open Sys2Proof Sys2Proof.Machine

/-- Settles O49: in range each cell takes the XOR of the bit that lands on it and VF the collision, out of range the access faults. -/
theorem drawXorsTheSpriteAndReportsCollision : Obligations.DrawXorsTheSpriteAndReportsCollision := by
  intro x y n s
  have hop : (encode (.drw x y n)).toNat = 0xD000 + 0x100 * x.toNat + 0x10 * y.toNat + n.toNat := toNat_encodeXYN 0xD#4 x y n
  refine ⟨encodedAs_of_toNat_encode hop, ?_, fun hn hout hs => ?_⟩
  · rintro _ _ hit rfl rfl hhit hin
    obtain rfl : hit = fun cx cy => s.landingBit x y n cx cy = true :=
      funext₂ fun cx cy => propext ((hhit cx cy).trans spriteBit_eq_true_iff.symm)
    exact ⟨_, exec_drw_of_inMemory hin x y,
      fun _ _ hcx hcy => ⟨State.cell_drawn_of_landing hcx hcy, State.cell_drawn_of_not_landing hcx hcy⟩,
      (s.getV_vf_drawn_eq_one_iff x y n).mpr, (s.getV_vf_drawn_eq_zero_iff x y n).mpr, s.frame_drawn x y n⟩
  · have hpos : n.toNat ≠ 0 := fun h => hn (BitVec.eq_of_toNat_eq h)
    exact exec_onlyLatch_of_outside (k := n.toNat - 1) rfl (by omega) hop (by omega) hs

/-- Settles O50: the second draw has the bits of the first, so it undoes each XOR and meets exactly the cells the first one lit. -/
theorem drawingTwiceRestoresTheDisplay : Obligations.DrawingTwiceRestoresTheDisplay := by
  intro x y n s t u hin ht hmem hindex hdisplay hx hy
  obtain rfl : s.drawn x y n = t := Host.Outcome.next.inj ((exec_drw_of_inMemory hin x y).symm.trans ht)
  have hindex : u.index = s.index := hindex
  have hbits := State.landingBit_congr (s := s) hmem hindex hx hy n
  exact ⟨_, exec_drw_of_inMemory (hindex ▸ hin) x y, State.display_drawn_drawn hdisplay hbits,
    State.getV_vf_drawn_drawn_eq_one_iff hdisplay hbits, u.getV_vf_drawn_eq_one_or_zero x y n⟩

/-- Settles O48: CLS puts the clear display in place and advances. -/
theorem clearMakesEveryCellFalse : Obligations.ClearMakesEveryCellFalse :=
  ⟨encodedAs_of_toNat_encode rfl, fun _ => ⟨_, rfl, fun cx cy _ _ => Display.cell_clear cx cy, rfl, fun _ _ => rfl, rfl, rfl,
    ⟨rfl, rfl⟩, fun _ => rfl, rfl, rfl, rfl, rfl, rfl, rfl, rfl⟩⟩

end

section
/-! PROOFS. The key and timer instructions (44_keys_timers.md): the key test of each mode as a number, the next state of a skip by its
condition, FX0A by the lowest pressed key, and the frame of a timer write. -/

namespace Sys2Proof.Machine

/-! ### The key test -/

/-- FIXED tests bit `k` of KB (44_keys_timers.md R180). -/
theorem keyDown_fixed_iff {kb : Word} {k : Nat} : keyDown .fixed kb k = true ↔ kb.toNat / 2 ^ k % 2 = 1 := by
  rw [keyDown, BitVec.getLsbD, Nat.testBit_eq_decide_div_mod_eq, decide_eq_true_iff]

/-- REFERENCE compares the masked word with 1, so only key 0 passes (44_keys_timers.md R180): bit 0 of the mask of another key is 0. -/
theorem keyDown_reference_iff {kb : Word} {k : Nat} : keyDown .reference kb k = true ↔ k = 0 ∧ kb.toNat % 2 = 1 := by
  rw [keyDown, decide_eq_true_iff]
  constructor
  · intro h
    have hbit : (kb &&& (1#16 <<< k)).getLsbD 0 = true := by rw [h]; rfl
    obtain rfl : k = 0 := by
      by_contra hk
      simp [Nat.pos_of_ne_zero hk] at hbit
    exact ⟨rfl, by simpa using congrArg BitVec.toNat h⟩
  · rintro ⟨rfl, hodd⟩
    exact BitVec.eq_of_toNat_eq (by simpa using hodd)

/-- The key test is the condition that each mode gives (44_keys_timers.md R180). -/
theorem keyDown_iff {mode : KeyTestMode} {kb : Word} {k : Nat} {down : Prop}
    (hfixed : mode = .fixed → (down ↔ kb.toNat / 2 ^ k % 2 = 1))
    (hreference : mode = .reference → (down ↔ k = 0 ∧ kb.toNat % 2 = 1)) : keyDown mode kb k = true ↔ down := by
  cases mode with
  | fixed => exact keyDown_fixed_iff.trans (hfixed rfl).symm
  | reference => exact keyDown_reference_iff.trans (hreference rfl).symm

/-! ### The next states -/

/-- An instruction that skips on a condition. -/
theorem exec_next_skipIf {i : Instr} {s : State} {c : Bool} {p : Prop} (h : exec i s = .next (s.advance.skipIf c))
    (hc : c = true ↔ p) :
    ∃ t, exec i s = .next t ∧ (p → t.pc = s.pc + 4#16) ∧ (¬ p → t.pc = s.pc + 2#16) ∧ SameRegsBut [] s t ∧ SameButRegs s t := by
  rw [State.skipIf_advance] at h
  exact ⟨_, h, fun hp => if_pos (hc.mpr hp), fun hp => if_neg (mt hc.mp hp), sameButRegs_withPc s _⟩

/-- With no key pressed FX0A undoes its advance (44_keys_timers.md R184). -/
theorem exec_ldVxK_of_lowestKey_eq_none {s : State} (h : lowestKey s.keys = none) (x : Nibble) :
    exec (.ldVxK x) s = .next s := by
  change execLdVxK x s = .next s
  rw [execLdVxK, h, State.rewind_advance]

/-- With a key pressed FX0A puts the lowest one in VX (44_keys_timers.md R184). -/
theorem exec_ldVxK_of_lowestKey_eq_some {s : State} {k : Nat} (h : lowestKey s.keys = some k) (x : Nibble) :
    exec (.ldVxK x) s = .next (s.advance.setV x (BitVec.ofNat 8 k)) := by
  change execLdVxK x s = _
  rw [execLdVxK, h]

/-- A state that differs in `pc` and the timers only. -/
theorem frame_of_eq_withPcTimers {s t : State} {a : Word} {d b : Byte} (h : t = { s with pc := a, dt := d, st := b }) :
    SameRegsBut [] s t ∧ t.index = s.index ∧ t.stack = s.stack ∧ SameMem s t ∧ SameDisplay s t ∧ SameControl s t := by
  subst h
  exact ⟨fun _ _ => rfl, rfl, rfl, fun _ => rfl, rfl, rfl, rfl, rfl, rfl, rfl, rfl, rfl⟩

/-- The output `sound_active` (10_state.md R33). -/
theorem State.soundActive_eq_true {s : State} : s.soundActive = true ↔ s.st ≠ 0x00#8 :=
  decide_eq_true_iff

end Sys2Proof.Machine

open Sys2Proof Sys2Proof.Machine

/-- Settles O51: the key test is the condition of EX9E, and its negation that of EXA1. -/
theorem skipsOnAKey : Obligations.SkipsOnAKey := by
  rintro x s down _ rfl hfixed hreference
  have hdown : keyDown s.cfg.keyTestMode s.keys (keyOf (s.getV x)) = true ↔ down := keyDown_iff hfixed hreference
  have hup : (!keyDown s.cfg.keyTestMode s.keys (keyOf (s.getV x))) = true ↔ ¬ down := by
    rw [Bool.not_eq_true', ← Bool.not_eq_true, hdown]
  obtain ⟨t, hnext, hskip, hfall, hframe⟩ := exec_next_skipIf (i := .sknp x) rfl hup
  exact ⟨encodedAs_of_toNat_encode ((toNat_encodeXNN 0xE#4 x 0x9E#8).trans (Nat.add_right_comm ..)),
    encodedAs_of_toNat_encode ((toNat_encodeXNN 0xE#4 x 0xA1#8).trans (Nat.add_right_comm ..)),
    exec_next_skipIf rfl hdown, t, hnext, fun hd => hfall (not_not_intro hd), hskip, hframe⟩

/-- Settles O53: the lowest set bit of KB is the key that FX0A finds, and a KB that is not 0 has one. -/
theorem waitForKeyTakesTheLowestKey : Obligations.WaitForKeyTakesTheLowestKey := by
  intro x s
  refine ⟨encodedAs_of_toNat_encode (toNat_encode_FXNN rfl rfl), fun hnone => ?_, fun k hk hset hlowest => ?_, fun hsome => ?_⟩
  · exact exec_ldVxK_of_lowestKey_eq_none (lowestKey_eq_none.mpr hnone) x
  · have hkey : lowestKey s.keys = some k := lowestKey_eq_some.mpr ⟨hk, hset, hlowest⟩
    obtain ⟨t, hnext, hx, hframe⟩ := exec_next_setV (exec_ldVxK_of_lowestKey_eq_some hkey x)
    have hbyte : (BitVec.ofNat 8 k).toNat = k := (BitVec.toNat_ofNat ..).trans (Nat.mod_eq_of_lt (by omega))
    exact ⟨t, hnext, hx ▸ hbyte, hframe⟩
  · obtain ⟨k, hk⟩ := Option.ne_none_iff_exists'.mp (mt lowestKey_eq_none.mp hsome)
    exact ⟨k, lowestKey_eq_some.mp hk⟩

/-- Settles O52: FX07 puts DT in VX, FX15 and FX18 put VX in their timer, and sound follows ST. -/
theorem timersAreReadAndWritten : Obligations.TimersAreReadAndWritten := by
  intro x s
  exact ⟨encodedAs_of_toNat_encode (toNat_encode_FXNN rfl rfl), encodedAs_of_toNat_encode (toNat_encode_FXNN rfl rfl),
    encodedAs_of_toNat_encode (toNat_encode_FXNN rfl rfl), exec_next_setV rfl,
    ⟨_, rfl, rfl, rfl, rfl, frame_of_eq_withPcTimers rfl⟩,
    ⟨_, rfl, rfl, State.soundActive_eq_true, rfl, rfl, frame_of_eq_withPcTimers rfl⟩⟩

end

section
/-! PROOFS. The faults (60_exceptions.md R200 to R208): every step answers a next state, a step that latches a fault is one raise of it in
the state from before the step, and a latched fault halts the block until RESET. -/

namespace Sys2Proof.Machine

/-! ### Every step answers a next state -/

/-- A halted STEP, a latched fault, a completed instruction and a decode warning are next states (60_exceptions.md R207). -/
theorem stepWith_next (r : Byte) (s : State) : ∃ t, stepWith r s = .next t := by
  obtain ⟨-, heq⟩ | ⟨-, -, heq⟩ | ⟨-, -, w, -, ⟨i, -, heq⟩ | ⟨-, heq⟩⟩ := stepWith_cases r s
  · exact ⟨_, heq⟩
  · exact ⟨_, heq⟩
  · obtain ⟨t, ht, -⟩ := exec_cases i (s.supplyRnd r)
    exact ⟨t, heq.trans ht⟩
  · exact ⟨_, heq⟩

theorem run_next (k : Nat) (s : State) : ∃ t, Sys2Proof.core.run k s = .next t := by
  induction k generalizing s with
  | zero => exact ⟨s, run_zero s⟩
  | succ k ih =>
    obtain ⟨u, hu⟩ := stepWith_next (Config.randomByte s.draws) s
    obtain ⟨t, ht⟩ := ih u
    exact ⟨t, (run_succ k hu).trans ht⟩

/-! ### What latches a fault -/

/-- An instruction that latches a fault has raised it. -/
theorem exec_eq_raise_of_fault {i : Instr} {s t : State} (h : exec i s = .next t) (hs : s.fault.cause = none)
    (ht : t.fault.cause ≠ none) : ∃ c a, RaisesWhen i s c a ∧ t = s.raise c (encode i) a := by
  obtain hc | hraises := exec_ends h
  · exact absurd (hc.fault_eq ▸ hs) ht
  · exact hraises

/-- The latch has the code and the address that the instruction raises. -/
theorem raisesWhen_of_exec_fault {i : Instr} {s t : State} {c : Fault} (h : exec i s = .next t) (hs : s.fault.cause = none)
    (ht : t.fault.cause = some c) : RaisesWhen i s c t.fault.addr := by
  obtain ⟨d, a, hraises, rfl⟩ := exec_eq_raise_of_fault h hs (by simp [ht])
  rw [State.raise_of_no_fault hs] at ht ⊢
  obtain rfl : d = c := Option.some.inj ht
  exact hraises

/-- A STEP that latches a fault has raised it, with the word fetched, or 0 where the fetch itself faults (60_exceptions.md R204). -/
theorem stepWith_eq_raise_of_fault {r : Byte} {s t : State} (h : stepWith r s = .next t) (hs : s.fault.cause = none)
    (ht : t.fault.cause ≠ none) :
    ∃ c w a, t = (s.supplyRnd r).raise c w a ∧ (s.fetch = .ok w ∨ (∃ e, s.fetch = .error e) ∧ w = 0x0000#16) := by
  obtain ⟨hhalt, -⟩ | ⟨-, hout, heq⟩ | ⟨-, -, w, hw, ⟨i, hi, heq⟩ | ⟨-, heq⟩⟩ := stepWith_cases r s
  · exact absurd hs hhalt
  · exact ⟨_, _, _, Host.Outcome.next.inj (h.symm.trans heq), .inr ⟨⟨_, s.fetch_eq.trans (if_neg hout)⟩, rfl⟩⟩
  · obtain ⟨c, a, -, rfl⟩ := exec_eq_raise_of_fault (heq.symm.trans h) hs ht
    exact ⟨c, _, a, rfl, .inl (decode_eq_ok_iff_encode_eq.mp hi ▸ hw)⟩
  · obtain rfl := Host.Outcome.next.inj (heq.symm.trans h)
    exact absurd hs ht

/-- A fault raised in a STEP with none latched leaves everything but the latch (60_exceptions.md R204). -/
theorem raise_supplyRnd_precise {s : State} (hs : s.fault.cause = none) {t : State} {r : Byte} {c : Fault} {w a : Word}
    (h : t = (s.supplyRnd r).raise c w a) :
    SameArchitecture s t ∧ t.pc = s.pc ∧ t.diag = s.diag ∧ t.fault.pc = s.pc ∧ t.fault.opcode = w := by
  rw [State.raise_of_no_fault (s := s.supplyRnd r) hs] at h
  subst h
  exact ⟨⟨fun _ _ => rfl, rfl, rfl, ⟨rfl, rfl⟩, fun _ => rfl, rfl, rfl, rfl, rfl⟩, rfl, rfl, rfl, rfl⟩

/-! ### While a fault is latched -/

theorem stepWith_of_fault {s : State} (hs : s.fault.cause ≠ none) (r : Byte) : stepWith r s = .next s :=
  if_pos ((State.halted_eq_true s).mpr hs)

/-- A command but RESET and STEP neither reads nor writes the latch: with another one it does the same (60_exceptions.md R205). -/
theorem perform_of_perform_withFault {c : Command} {s t : State} {f : FaultLatch} (hreset : c ≠ .reset)
    (hstep : ∀ r, c ≠ .step r) (h : perform c { s with fault := f } = .next t) :
    perform c s = .next { t with fault := s.fault } := by
  cases c with
  | reset => exact absurd rfl hreset
  | step r => exact absurd rfl (hstep r)
  | setKey _ _ | queryKey _ | hostWrite _ _ =>
    obtain ⟨hin, rfl⟩ := eq_of_guard_eq_next h
    exact if_pos hin
  | tick | copyState _ | clearDisplay | setQuirks _ =>
    obtain rfl := Host.Outcome.next.inj h
    rfl

/-- While a fault is latched every command but RESET leaves it: a STEP is inert, and the others leave any latch. -/
theorem perform_fault_of_fault {c : Command} {s t : State} (hs : s.fault.cause ≠ none) (hreset : c ≠ .reset)
    (h : perform c s = .next t) : t.fault = s.fault := by
  by_cases hstep : ∃ r, c = .step r
  · obtain ⟨r, rfl⟩ := hstep
    obtain rfl := Host.Outcome.next.inj ((stepWith_of_fault hs r).symm.trans h)
    rfl
  · have hsame := perform_of_perform_withFault hreset (not_exists.mp hstep) (f := s.fault) h
    exact (congrArg State.fault (Host.Outcome.next.inj (h.symm.trans hsame)) :)

end Sys2Proof.Machine

open Sys2Proof Sys2Proof.Machine

/-- Settles O10, by induction on the number of steps. -/
theorem everyRunOfStepsContinues : Obligations.EveryRunOfStepsContinues := run_next

/-- Settles O11: the step is one raise, in the state from before it. -/
theorem faultingStepIsPrecise : Obligations.FaultingStepIsPrecise := by
  intro r s t h hs ht
  obtain ⟨c, w, a, hraise, hfetch⟩ := stepWith_eq_raise_of_fault h hs ht
  obtain ⟨harch, hpc, hdiag, hfpc, hop⟩ := raise_supplyRnd_precise hs hraise
  refine ⟨harch, hpc, hdiag, hfpc, ?_⟩
  obtain hw | ⟨⟨e, he⟩, rfl⟩ := hfetch
  · rw [hw]
    exact hop
  · rw [he]
    exact hop

/-- Settles O12: the instruction has raised the fault, and each of the six that can raise one raises its own. -/
theorem faultsComeOnlyFromTheirInstructions : Obligations.FaultsComeOnlyFromTheirInstructions := by
  intro i s t c h hs ht
  have hraises := raisesWhen_of_exec_fault h hs ht
  have hdata (ha : t.fault.addr = BitVec.ofNat 16 (max s.index.toNat 4096)) : t.fault.addr.toNat = max s.index.toNat 4096 :=
    (congrArg BitVec.toNat ha).trans (toNat_max_4096 s.index)
  cases i with
  | ret =>
    obtain ⟨hc, haddr, hempty⟩ := hraises
    exact .inl ⟨hc, rfl, hempty, haddr⟩
  | call nnn =>
    obtain ⟨hc, haddr, hfull⟩ := hraises
    exact .inr (.inl ⟨hc, ⟨nnn, rfl⟩, s.stackFull_eq_true.mp hfull, haddr⟩)
  | drw x y n =>
    obtain ⟨hc, haddr, hn, hout⟩ := hraises
    exact .inr (.inr ⟨hc, hdata haddr, .inl ⟨x, y, n, rfl, hn, hout⟩⟩)
  | ldB x =>
    obtain ⟨hc, haddr, hout⟩ := hraises
    exact .inr (.inr ⟨hc, hdata haddr, .inr (.inl ⟨x, rfl, hout⟩)⟩)
  | stRegs x =>
    obtain ⟨hc, haddr, hout⟩ := hraises
    exact .inr (.inr ⟨hc, hdata haddr, .inr (.inr ⟨x, .inl rfl, hout⟩)⟩)
  | ldRegs x =>
    obtain ⟨hc, haddr, hout⟩ := hraises
    exact .inr (.inr ⟨hc, hdata haddr, .inr (.inr ⟨x, .inr rfl, hout⟩)⟩)
  | _ => exact hraises.elim

/-- Settles O9: a STEP is inert, the other commands but RESET do the same whatever the latch, and RESET clears it. -/
theorem haltedUntilReset : Obligations.HaltedUntilReset :=
  fun _ hs => ⟨stepWith_of_fault hs _, stepWith_of_fault hs, fun _ _ => perform_fault_of_fault hs,
    fun _ _ => perform_of_perform_withFault, _, rfl, rfl⟩

end

section
/-! PROOFS. The host's commands (60_exceptions.md R220 to R228): the timers at a TICK as numbers, the keyboard after a SET_KEY bit by bit,
and the answers of QUERY_KEY in each mode. -/

namespace Sys2Proof.Machine

/-- One timer at a TICK as a number: 0 stays 0 (60_exceptions.md R220). -/
theorem toNat_tickTimer (b : Byte) : (tickTimer b).toNat = b.toNat - 1 := by
  by_cases h : b = 0x00#8
  · rw [tickTimer, if_pos h, h]
    rfl
  · rw [tickTimer, if_neg h]
    bv_omega

/-- SET_KEY writes its own bit of KB and no other (60_exceptions.md R222). -/
theorem getLsbD_setKeyBit (kb : Word) {key : Nat} (hkey : key < 16) (pressed : Bool) (j : Nat) :
    (setKeyBit kb key pressed).getLsbD j = if j = key then pressed else kb.getLsbD j := by
  have hmask : (1#16 <<< key).getLsbD j = decide (j = key) := by
    rw [← BitVec.twoPow_eq, BitVec.getLsbD_twoPow]
    simp [hkey, eq_comm]
  cases pressed with
  | true =>
    have hset : (setKeyBit kb key true).getLsbD j = (kb.getLsbD j || decide (j = key)) := by
      rw [setKeyBit, if_pos rfl, BitVec.getLsbD_or, hmask]
    rw [hset]
    by_cases hj : j = key <;> simp [hj]
  | false =>
    have hclear : (setKeyBit kb key false).getLsbD j = (kb.getLsbD j && !decide (j = key)) := by
      rw [setKeyBit, if_neg Bool.false_ne_true, BitVec.getLsbD_and, BitVec.getLsbD_not, hmask]
      cases h : kb.getLsbD j
      · rfl
      · simp [BitVec.lt_of_getLsbD h]
    rw [hclear]
    by_cases hj : j = key <;> simp [hj]

theorem perform_setKey_of_lt {key : Nat} (h : key < 16) (pressed : Bool) (s : State) :
    perform (.setKey key pressed) s = .next { s with keys := setKeyBit s.keys key pressed } :=
  if_pos h

theorem queryKey_of_lt {key : Nat} (h : key < 16) (s : State) :
    queryKey key s = .ok (keyDown s.cfg.keyTestMode s.keys key) :=
  if_pos h

/-- Under FIXED, QUERY_KEY answers the bit of the key (60_exceptions.md R223). -/
theorem queryKey_of_fixed {key : Nat} (h : key < 16) {s : State} (hmode : s.cfg.keyTestMode = .fixed) :
    queryKey key s = .ok (s.keys.getLsbD key) := by
  rw [queryKey_of_lt h, hmode]
  rfl

/-- The key test of REFERENCE passes key 0 alone (44_keys_timers.md R180). -/
theorem keyDown_reference_eq (kb : Word) (k : Nat) : keyDown .reference kb k = (decide (k = 0) && kb.getLsbD 0) := by
  rw [Bool.eq_iff_iff, keyDown_reference_iff, Bool.and_eq_true, decide_eq_true_iff, BitVec.getLsbD, Nat.testBit_zero,
    decide_eq_true_iff]

/-- Under REFERENCE, QUERY_KEY answers for key 0 alone (60_exceptions.md R223). -/
theorem queryKey_of_reference {key : Nat} (h : key < 16) {s : State} (hmode : s.cfg.keyTestMode = .reference) :
    queryKey key s = .ok (decide (key = 0) && s.keys.getLsbD 0) := by
  rw [queryKey_of_lt h, hmode, keyDown_reference_eq]

end Sys2Proof.Machine

open Sys2Proof Sys2Proof.Machine

/-- Settles O55: in range SET_KEY writes one bit and QUERY_KEY reads one, out of range the guard of each refuses. -/
theorem keyCommandsSetAndTestOneKey : Obligations.KeyCommandsSetAndTestOneKey := by
  intro key pressed s
  have hbit (hkey : key < 16) : (setKeyBit s.keys key pressed).getLsbD key = pressed :=
    (getLsbD_setKeyBit s.keys hkey pressed key).trans (if_pos rfl)
  refine ⟨fun hkey => ⟨⟨_, perform_setKey_of_lt hkey pressed s, rfl, hbit hkey, fun j hj => ?_, fun hmode => ?_⟩, if_pos hkey,
    queryKey_of_fixed hkey, queryKey_of_reference hkey⟩, fun hkey => ?_⟩
  · exact (getLsbD_setKeyBit s.keys hkey pressed j).trans (if_neg hj)
  · exact (queryKey_of_fixed (s := { s with keys := setKeyBit s.keys key pressed }) hkey hmode).trans (congrArg _ (hbit hkey))
  · have hout : ¬ key < 16 := Nat.not_lt.mpr hkey
    exact ⟨if_neg hout, if_neg hout, if_neg hout⟩

/-- Settles O54. -/
theorem tickCountsEachTimerDown : Obligations.TickCountsEachTimerDown :=
  fun s => ⟨_, rfl, toNat_tickTimer s.dt, toNat_tickTimer s.st, rfl, fun _ _ => rfl, rfl, rfl, fun _ => rfl, rfl,
    rfl, rfl, rfl, rfl, rfl, rfl, rfl⟩

/-- Settles O57: each snapshot field of the next state is the source's. -/
theorem copyStateTakesTheSnapshot : Obligations.CopyStateTakesTheSnapshot :=
  fun _ _ => ⟨_, rfl, fun _ => rfl, rfl, fun _ => rfl, rfl, rfl, rfl, rfl, rfl, rfl, rfl, rfl, rfl, rfl⟩

/-- Settles O58: CLEAR_DISPLAY puts the clear display in place, as CLS does. -/
theorem clearDisplayAndSetQuirks : Obligations.ClearDisplayAndSetQuirks :=
  fun _ _ => ⟨⟨_, rfl, fun x y _ _ => Display.cell_clear x y, rfl⟩, _, rfl, rfl, rfl⟩

end

section
/-! PROOFS. The self-loop end of a run (70_reset_and_hazards.md R247): the jump to its own address takes back the advance of `pc`, so a
STEP there leaves only the random byte it was supplied with. -/

namespace Sys2Proof.Machine

/-- The jump of a self-loop end goes to `pc`. -/
theorem exec_jp_self {s : State} {nnn : Addr12} (h : nnn.toNat = s.pc.toNat) : exec (.jp nnn) s = .next s := by
  have htarget : immAddr nnn = s.pc := BitVec.eq_of_toNat_eq ((toNat_immAddr nnn).trans h)
  calc exec (.jp nnn) s = .next (s.advance.jump (immAddr nnn)) := rfl
    _ = .next (s.advance.jump s.pc) := by rw [htarget]
    _ = .next s := rfl

/-- A STEP at a self-loop end only takes its random byte. -/
theorem stepWith_of_selfLoopEnd (r : Byte) {s : State} (hs : s.fault.cause = none) (hend : s.selfLoopEnd) :
    stepWith r s = .next (s.supplyRnd r) := by
  obtain ⟨-, nnn, hpc, hfetch⟩ := hend
  exact (stepWith_of_fetch_encode r hs hfetch).trans (exec_jp_self hpc)

/-- Neither the latch nor the self-loop end looks at the model's own `rnd` and `draws`, so the steps of a run there are all alike. -/
theorem run_of_selfLoopEnd (k : Nat) {s : State} (hs : s.fault.cause = none) (hend : s.selfLoopEnd) :
    ∃ r n, Sys2Proof.core.run k s = .next { s with rnd := r, draws := n } := by
  induction k generalizing s with
  | zero => exact ⟨s.rnd, s.draws, run_zero s⟩
  | succ k ih =>
    have hstep : step s = .next (s.supplyRnd (Config.randomByte s.draws)) := stepWith_of_selfLoopEnd _ hs hend
    obtain ⟨r, n, hrun⟩ := ih (s := s.supplyRnd (Config.randomByte s.draws)) hs hend
    exact ⟨r, n, (run_succ k hstep).trans hrun⟩

end Sys2Proof.Machine

open Sys2Proof Sys2Proof.Machine

/-- Settles O59, by induction on the number of steps: each changes `rnd` and `draws` only. -/
theorem selfLoopNeverLeaves : Obligations.SelfLoopNeverLeaves := by
  intro k s hs hend
  obtain ⟨r, n, hrun⟩ := run_of_selfLoopEnd k hs hend
  have harch : SameArchitecture s { s with rnd := r, draws := n } :=
    ⟨fun _ _ => rfl, rfl, rfl, ⟨rfl, rfl⟩, fun _ => rfl, rfl, rfl, rfl, rfl⟩
  exact ⟨_, hrun, harch, rfl, rfl, rfl, hend⟩

end
